-- ==== Sys2Proof/Word.lean ====
section
/-! DEFINITION. The word types of the engine. -/

namespace Sys2Proof

/-- One byte of a byte string, of DMEM or of the arena (`00_scope.md` R10, `10_state.md` R33). -/
abbrev Byte := BitVec 8

/-- One word of the register space and one command word (`10_state.md` R21, `30_encoding.md` R90). -/
abbrev Word := BitVec 32

/-- A 16-byte value: a tweak, a pad value, a cipher block. Byte i of the byte string is bits
[8i+7:8i], so that the value as a number is the spec's `le128` (`00_scope.md` R11, `20_memory.md`
R61 and R62). -/
abbrev Block := BitVec 128

/-- A 12-byte nonce, byte i in bits [8i+7:8i] (`10_state.md` R22, SIRC_NONCE). -/
abbrev Nonce := BitVec 96

/-- A byte string, first byte first (`00_scope.md` R10). -/
abbrev Bytes := List Byte

end Sys2Proof
end

