-- ==== Sys2Proof/Machine/ByteOrder.lean ====
section
/-! DEFINITION. Byte order and slicing of byte strings (`00_scope.md` R10 to R12, `20_memory.md` R61
to R63). -/

namespace Sys2Proof

/-- Byte i of a value: bits [8i+7:8i] (`20_memory.md` R61). -/
def byteAt {w : Nat} (v : BitVec w) (i : Nat) : Byte := v.extractLsb' (8 * i) 8

/-- `bytes_le(v, n)`: the n low bytes, least significant first (`00_scope.md` R11). -/
def bytesLe {w : Nat} (n : Nat) (v : BitVec w) : Bytes := (List.range n).map fun i => byteAt v i

/-- The integer `sum over i of B[i] * 256^i` (`00_scope.md` R11). -/
def leNat : Bytes → Nat
  | [] => 0
  | b :: bs => b.toNat + 256 * leNat bs

/-- The w-bit value whose bytes, least significant first, are the given ones, zero-filled after them. -/
def ofBytesLe (w : Nat) (bs : Bytes) : BitVec w := BitVec.ofNat w (leNat bs)

/-- The 16 bytes of a block, byte 0 first. -/
def blockBytes (b : Block) : Bytes := bytesLe 16 b

/-- The block whose bytes are the given ones. -/
def blockOfBytes (bs : Bytes) : Block := ofBytesLe 128 bs

/-- Word n of a multi-word register (`20_memory.md` R61). -/
def wordAt {w : Nat} (v : BitVec w) (n : Nat) : Word := v.extractLsb' (32 * n) 32

/-- A four-word register with word n replaced (`20_memory.md` R61). -/
def setWordAt (v : Block) (n : Nat) (x : Word) : Block :=
  (v &&& ~~~((BitVec.allOnes 32).setWidth 128 <<< (32 * n))) ||| (x.setWidth 128 <<< (32 * n))

/-- `0^n`: n bytes of value 0x00 (`00_scope.md` R10). -/
def zeros (n : Nat) : Bytes := List.replicate n 0

/-- `B[a..b)`: the bytes at indices a up to but not including b (`00_scope.md` R10). -/
def slice (bs : Bytes) (a b : Nat) : Bytes := (bs.drop a).take (b - a)

/-- `A xor B`, bytewise, as long as the shorter of the two (`00_scope.md` R10 uses it on equal lengths). -/
def xorBytes (a b : Bytes) : Bytes := List.zipWith (· ^^^ ·) a b

end Sys2Proof
end

