-- ==== Sys2Proof/Syntax.lean ====
section
/-! DEFINITION. The twelve commands (`30_encoding.md` R93, R97) and the fields of the one command
format (R90). -/

namespace Sys2Proof

/-- The padder a command names by its PSEL bit (`30_encoding.md` R90, `42_padding.md` R172). -/
inductive Padder where
  /-- PSEL = 0, the default padder. -/
  | default
  /-- PSEL = 1, the XOR padder. -/
  | xor
deriving DecidableEq, Repr

/-- The key slot a command names by its KSEL bit (`30_encoding.md` R90). -/
inductive KeySlot where
  /-- KSEL = 0, KEY[1]. -/
  | key1
  /-- KSEL = 1, KEY[2]. -/
  | key2
deriving DecidableEq, Repr

/-- The MultiSalt kind a command names by its SALT16 bit (`30_encoding.md` R91, `44_codec_frames.md` R220). -/
inductive SaltKind where
  /-- SALT16 = 0, the 2-byte "short" salt. -/
  | short
  /-- SALT16 = 1, the 16-byte "extended" salt. -/
  | extended
deriving DecidableEq, Repr

/-- The verification mode a command names by its SIGMODE bit (`30_encoding.md` R91). -/
inductive VerifyMode where
  /-- SIGMODE = 0, MIC. -/
  | mic
  /-- SIGMODE = 1, signature. -/
  | signature
deriving DecidableEq, Repr

/-- The commands, one constructor per row of the opcode map (`30_encoding.md` R93), each with the
flags that its row lists. -/
inductive Instr where
  | keyLoad
  | twkStep
  | twkAdv
  | mix
  | pad (psel : Padder)
  | xtsEnc (ksel : KeySlot)
  | xtsDec (ksel : KeySlot)
  | ldtEnc (psel : Padder)
  | ldtDec (psel : Padder)
  | resolveV0 (psel : Padder)
  | resolveV1 (salt16 : SaltKind) (sigmode : VerifyMode)
  | arenaReset
deriving DecidableEq, Repr

/-- The fields of command format C as they stand in a word, legal or not (`30_encoding.md` R90). -/
structure Fields where
  /-- Bits [7:0]. -/
  op : BitVec 8
  /-- Bit [8]. -/
  ksel : Bool
  /-- Bit [9]. -/
  psel : Bool
  /-- Bit [10]. -/
  salt16 : Bool
  /-- Bit [11]. -/
  sigmode : Bool
  /-- Bits [31:12], "must be 0". -/
  reserved : BitVec 20
deriving DecidableEq, Repr

end Sys2Proof
end

