-- ==== Sys2Proof/WellFormed.lean ====
section
/-! DEFINITION. Which fields make a legal command word (`30_encoding.md` R95): three checks. -/

namespace Sys2Proof

/-- Which of the four flag bits a command reads. -/
structure FlagSet where
  ksel : Bool
  psel : Bool
  salt16 : Bool
  sigmode : Bool
deriving DecidableEq, Repr

/-- The flags each assigned opcode lists, none where the opcode is not assigned (`30_encoding.md`
R93, and `used` of R97). -/
def listedFlags (op : BitVec 8) : Option FlagSet :=
  match op.toNat with
  | 0x05 | 0x0A | 0x0B | 0x10 => some ⟨false, true, false, false⟩
  | 0x08 | 0x09 => some ⟨true, false, false, false⟩
  | 0x11 => some ⟨false, false, true, true⟩
  | 0x01 | 0x02 | 0x03 | 0x04 | 0x18 => some ⟨false, false, false, false⟩
  | _ => none

/-- First check: no bit of [31:12] is 1. -/
def Fields.reservedClear (f : Fields) : Bool := f.reserved == 0

/-- Second check: the opcode is one of the twelve. -/
def Fields.opAssigned (f : Fields) : Bool := (listedFlags f.op).isSome

/-- Third check: every flag bit the command does not list is 0. -/
def Fields.flagsListed (f : Fields) : Bool :=
  match listedFlags f.op with
  | none => false
  | some l => (!f.ksel || l.ksel) && (!f.psel || l.psel) && (!f.salt16 || l.salt16) &&
      (!f.sigmode || l.sigmode)

/-- The fields of a legal command word: all three checks. -/
def Fields.wellFormed (f : Fields) : Bool := f.reservedClear && f.opAssigned && f.flagsListed

/-- A command is well-formed whatever its operands: each operand is a two-valued flag, and a command
has no place for a flag its row does not list, so no ill-formed term of `Instr` can be written. The
checks of R95 are those on `Fields`. -/
def Instr.wellFormed : Instr → Bool
  | .keyLoad => true
  | .twkStep => true
  | .twkAdv => true
  | .mix => true
  | .pad _ => true
  | .xtsEnc _ => true
  | .xtsDec _ => true
  | .ldtEnc _ => true
  | .ldtDec _ => true
  | .resolveV0 _ => true
  | .resolveV1 _ _ => true
  | .arenaReset => true

end Sys2Proof
end

