-- ==== Sys2Proof/Decode.lean ====
section
/-! DEFINITION. The decoder of command words, total, rejecting by name (`30_encoding.md` R90, R95,
R97), and after it the encoder. -/

namespace Sys2Proof

/-- Why a word is `Illegal` (`30_encoding.md` R95, R97, in the order R97 tests). -/
inductive DecodeError where
  /-- A bit of [31:12] is 1. -/
  | reservedBits
  /-- OP is not one of the twelve. -/
  | unassignedOpcode
  /-- A flag bit the command does not list is 1. -/
  | unlistedFlag
  /-- Fewer than the four bytes of a command word. -/
  | truncated
deriving DecidableEq, Repr

/-- The fields of a word (`30_encoding.md` R90). -/
def fieldsOf (w : Word) : Fields where
  op := w.extractLsb' 0 8
  ksel := w.getLsbD 8
  psel := w.getLsbD 9
  salt16 := w.getLsbD 10
  sigmode := w.getLsbD 11
  reserved := w.extractLsb' 12 20

/-- PSEL (`30_encoding.md` R90). -/
def padderOfBit : Bool → Padder
  | false => .default
  | true => .xor

/-- KSEL (`30_encoding.md` R90). -/
def slotOfBit : Bool → KeySlot
  | false => .key1
  | true => .key2

/-- SALT16 (`30_encoding.md` R90). -/
def saltOfBit : Bool → SaltKind
  | false => .short
  | true => .extended

/-- SIGMODE (`30_encoding.md` R90). -/
def modeOfBit : Bool → VerifyMode
  | false => .mic
  | true => .signature

/-- "the command of op with its used flags" (`30_encoding.md` R97). -/
def commandOf (f : Fields) : Option Instr :=
  match f.op.toNat with
  | 0x01 => some .keyLoad
  | 0x02 => some .twkStep
  | 0x03 => some .twkAdv
  | 0x04 => some .mix
  | 0x05 => some (.pad (padderOfBit f.psel))
  | 0x08 => some (.xtsEnc (slotOfBit f.ksel))
  | 0x09 => some (.xtsDec (slotOfBit f.ksel))
  | 0x0A => some (.ldtEnc (padderOfBit f.psel))
  | 0x0B => some (.ldtDec (padderOfBit f.psel))
  | 0x10 => some (.resolveV0 (padderOfBit f.psel))
  | 0x11 => some (.resolveV1 (saltOfBit f.salt16) (modeOfBit f.sigmode))
  | 0x18 => some .arenaReset
  | _ => none

/-- `Decode(w)` on the fields of w (`30_encoding.md` R97). -/
def decodeFields (f : Fields) : Except DecodeError Instr :=
  if !f.reservedClear then .error .reservedBits
  else
    match commandOf f with
    | none => .error .unassignedOpcode
    | some i => if f.flagsListed then .ok i else .error .unlistedFlag

/-- `Decode(w)` (`30_encoding.md` R97). -/
def decodeWord (w : Word) : Except DecodeError Instr := decodeFields (fieldsOf w)

/-- The decoder on bytes: a command word is four bytes, byte n of the word in bits [8n+7:8n]
(`30_encoding.md` R90, `20_memory.md` R61); it gives the command and the bytes after it. -/
def decode : Bytes → Except DecodeError (Instr × Bytes)
  | b0 :: b1 :: b2 :: b3 :: rest => (decodeWord (ofBytesLe 32 [b0, b1, b2, b3])).map fun i => (i, rest)
  | _ => .error .truncated

/-- The fields of a command (`30_encoding.md` R90, R93). -/
def encodeFields : Instr → Fields
  | .keyLoad => ⟨0x01, false, false, false, false, 0⟩
  | .twkStep => ⟨0x02, false, false, false, false, 0⟩
  | .twkAdv => ⟨0x03, false, false, false, false, 0⟩
  | .mix => ⟨0x04, false, false, false, false, 0⟩
  | .pad p => ⟨0x05, false, p == .xor, false, false, 0⟩
  | .xtsEnc k => ⟨0x08, k == .key2, false, false, false, 0⟩
  | .xtsDec k => ⟨0x09, k == .key2, false, false, false, 0⟩
  | .ldtEnc p => ⟨0x0A, false, p == .xor, false, false, 0⟩
  | .ldtDec p => ⟨0x0B, false, p == .xor, false, false, 0⟩
  | .resolveV0 p => ⟨0x10, false, p == .xor, false, false, 0⟩
  | .resolveV1 l m => ⟨0x11, false, false, l == .extended, m == .signature, 0⟩
  | .arenaReset => ⟨0x18, false, false, false, false, 0⟩

/-- The word with the given fields (`30_encoding.md` R90). -/
def packFields (f : Fields) : Word :=
  f.reserved ++ BitVec.ofBool f.sigmode ++ BitVec.ofBool f.salt16 ++ BitVec.ofBool f.psel ++
    BitVec.ofBool f.ksel ++ f.op

/-- `Encode` (`30_encoding.md` R97). -/
def encodeWord (i : Instr) : Word := packFields (encodeFields i)

/-- The bytes of a command word, least significant first. -/
def encode (i : Instr) : Bytes := bytesLe 4 (encodeWord i)

/-- The 21 legal command words, in the order `30_encoding.md` R94 lists them. -/
def legalWords : List Word :=
  [0x00000001, 0x00000002, 0x00000003, 0x00000004, 0x00000005, 0x00000205, 0x00000008, 0x00000108,
   0x00000009, 0x00000109, 0x0000000A, 0x0000020A, 0x0000000B, 0x0000020B, 0x00000010, 0x00000210,
   0x00000011, 0x00000411, 0x00000811, 0x00000C11, 0x00000018]

/-- The command word of which an opcode-table row gives the low `nbits` bits; the bits above are 0. -/
def tableWord (nbits w : Nat) : Word := BitVec.ofNat 32 (w % 2 ^ nbits)

/-- What the decoder reads from a word of the opcode table, laid out as its four bytes. -/
def decodeTableWord (nbits w : Nat) : Option Instr :=
  match decode (bytesLe 4 (tableWord nbits w)) with
  | .ok (i, _) => some i
  | .error _ => none

end Sys2Proof
end

