-- ==== Sys2Proof/Config.lean ====
section
/-! DEFINITION. The parameters of a built engine and the provider it calls (`00_scope.md` R7, R8 and
R9), as one record that every function of the model takes as an argument; the record the machine
`Sys2Proof.core` is built with; and the free values. -/

namespace Sys2Proof

/-- The two key sizes in scope, "AES-128 and AES-256, one per built instance" (`00_scope.md` R2, R7). -/
inductive AesKeySize where
  | aes128
  | aes256
deriving DecidableEq, Repr, Inhabited

/-- `AES_KEY_BYTES` (`00_scope.md` R7). -/
def AesKeySize.keyBytes : AesKeySize → Nat
  | .aes128 => 16
  | .aes256 => 32

/-- `XTS_KEY_BYTES` = 2 * `AES_KEY_BYTES` (`00_scope.md` R7). -/
def AesKeySize.xtsKeyBytes (k : AesKeySize) : Nat := 2 * k.keyBytes

/-- `LDT_KEY_BYTES` = 2 * `XTS_KEY_BYTES` (`00_scope.md` R7). -/
def AesKeySize.ldtKeyBytes (k : AesKeySize) : Nat := 2 * k.xtsKeyBytes

/-- The parameters of one built engine and its provider `P`: "arguments of the step relation, not
state" (`10_state.md` R20, R36). The types carry what the spec says of each function and nothing
else: for every key AES is a bijection of 16-byte blocks, and the results have the lengths the table
of R9 gives them (log entries 2 and 3). -/
structure Engine where
  /-- `AES_KEY_BYTES`, R7. -/
  aesKeySize : AesKeySize
  /-- `GF_REDUCE`, R8 and `40_tweak.md` R120. -/
  gfReduce : Byte
  /-- `MIX_PERM`, the permutation sigma of `43_ldt.md` R185. -/
  mixPerm : Equiv.Perm (Fin 16)
  /-- `DMEM_BYTES`, R8. -/
  dmemBytes : Nat
  /-- `ARENA_BYTES`, R8 and `46_arena.md` R270. -/
  arenaBytes : Nat
  /-- `NCRED_MAX`, R8 and `45_resolve.md` R237. -/
  ncredMax : Nat
  /-- `MAC_LEN`, R8. -/
  macLen : Nat
  /-- `MIC_LEN`, R8. -/
  micLen : Nat
  /-- `SIG_LEN`, R8. -/
  sigLen : Nat
  /-- `PUBKEY_BYTES`, R8. -/
  pubkeyBytes : Nat
  /-- `SVC_CTX`, R8. -/
  svcCtx : Bytes
  /-- `SIG_CTX`, R8. -/
  sigCtx : Bytes
  /-- `P.AesEnc(k, ·)`, a bijection of blocks for every key `k`, whose inverse is `P.AesDec(k, ·)`. -/
  aes : Bytes → Equiv.Perm Block
  /-- `P.Hmac(k, m)`, the tag of the length asked for: `MAC_LEN` bytes in V0, `MIC_LEN` in V1. -/
  hmac : (tagLen : Nat) → (key msg : Bytes) → Vector Byte tagLen
  /-- `P.DeriveV0Ldt(seed)`, `LDT_KEY_BYTES` bytes. -/
  deriveV0Ldt : (seed : Bytes) → Vector Byte aesKeySize.ldtKeyBytes
  /-- `P.DeriveV0Hmac(seed)`, key bytes. -/
  deriveV0Hmac : (seed : Bytes) → Bytes
  /-- `P.ComputeNonce(salt)`, 12 bytes. -/
  computeNonce : (salt : Bytes) → Nonce
  /-- `P.V1Decrypt(seed, salt, nonce, tok, de)`: 16 bytes, and as many bytes as `de` has. -/
  v1Decrypt : (seed salt : Bytes) → (nonce : Nonce) → (tok : Block) → (de : Bytes) →
    Block × Vector Byte de.length
  /-- `P.DeriveV1Mic(seed, salt_len)`, key bytes. -/
  deriveV1Mic : (seed : Bytes) → (saltLen : Nat) → Bytes
  /-- `P.Ed25519Verify(pk, ctx, m, sig)`. -/
  ed25519Verify : (pk ctx msg sig : Bytes) → Bool

/-- `P.AesEnc(k, b)` (`00_scope.md` R9). -/
def Engine.aesEnc (E : Engine) (k : Bytes) (b : Block) : Block := E.aes k b

/-- `P.AesDec(k, b)`, the inverse of `P.AesEnc(k, ·)` (`00_scope.md` R9). -/
def Engine.aesDec (E : Engine) (k : Bytes) (b : Block) : Block := (E.aes k).symm b

/-- `CRED_STRIDE = 32 + MAC_LEN + PUBKEY_BYTES` (`45_resolve.md` R236). -/
def Engine.credStride (E : Engine) : Nat := 32 + E.macLen + E.pubkeyBytes

namespace Config

/-- Which of the two key sizes the engine was built with: open, R7. -/
opaque aesKeySize : AesKeySize

/-- How many bytes DMEM has beyond the 4096 it has at least: open, R8 and D11. With 32-bit addresses
it has at most 2^32 bytes in all (log entry 6). -/
opaque dmemBeyondLeast : Fin 4294963201

/-- How far `NCRED_MAX` lies above 10, which it is at least: open, R8 and D22. CRED_COUNT, of 32 bits,
can hold a larger value (`10_state.md` R29; log entry 6). -/
opaque ncredBeyondLeast : Fin 4294967285

/-- `MAC_LEN`: open, R8 and D27; below 256 (log entry 6). -/
opaque macLen : Fin 256

/-- `MIC_LEN`: open, R8 and D27; below 256 (log entry 6). -/
opaque micLen : Fin 256

/-- `SIG_LEN`: open, R8 and D27; below 256 (log entry 6). -/
opaque sigLen : Fin 256

/-- `PUBKEY_BYTES`: open, R8 and D22; below 256 (log entry 6). -/
opaque pubkeyBytes : Fin 256

/-- `SVC_CTX`: open, R8 and D33. -/
opaque svcCtx : Bytes

/-- `SIG_CTX`: open, R8 and D33. -/
opaque sigCtx : Bytes

/-- The block cipher of the provider, R9: nothing but bijectivity for each key is known of it. -/
opaque aes : Bytes → Equiv.Perm Block

/-- `P.Hmac`, R9. -/
opaque hmac : (tagLen : Nat) → (key msg : Bytes) → Vector Byte tagLen

/-- `P.DeriveV0Ldt`, R9. -/
opaque deriveV0Ldt : (seed : Bytes) → Vector Byte aesKeySize.ldtKeyBytes

/-- `P.DeriveV0Hmac`, R9. -/
opaque deriveV0Hmac : (seed : Bytes) → Bytes

/-- `P.ComputeNonce`, R9. -/
opaque computeNonce : (salt : Bytes) → Nonce

/-- `P.V1Decrypt`, R9. -/
opaque v1Decrypt : (seed salt : Bytes) → (nonce : Nonce) → (tok : Block) → (de : Bytes) →
    Block × Vector Byte de.length

/-- `P.DeriveV1Mic`, R9. -/
opaque deriveV1Mic : (seed : Bytes) → (saltLen : Nat) → Bytes

/-- `P.Ed25519Verify`, R9. -/
opaque ed25519Verify : (pk ctx msg sig : Bytes) → Bool

/-- The byte that the read numbered `draw` finds at address `a` of DMEM or of the arena when nothing
defines that byte: "a free draw of any byte value, possibly different at each read" (`10_state.md`
R38; log entry 4). -/
opaque freeByte : (draw a : Nat) → Byte

/-- The default `MIX_PERM`: sigma(i) = 15 - i, byte reversal (`43_ldt.md` R185). -/
def byteReversal : Equiv.Perm (Fin 16) where
  toFun i := 15 - i
  invFun i := 15 - i
  left_inv := by decide
  right_inv := by decide

/-- The engine `Sys2Proof.core` runs. The three parameters for which the table of R8 takes one value
have it (log entry 1); every other parameter, and the whole provider, is an opaque constant. -/
def engine : Engine where
  aesKeySize := aesKeySize
  gfReduce := 0x87
  mixPerm := byteReversal
  dmemBytes := 4096 + dmemBeyondLeast.val
  arenaBytes := 254
  ncredMax := 10 + ncredBeyondLeast.val
  macLen := macLen.val
  micLen := micLen.val
  sigLen := sigLen.val
  pubkeyBytes := pubkeyBytes.val
  svcCtx := svcCtx
  sigCtx := sigCtx
  aes := aes
  hmac := hmac
  deriveV0Ldt := deriveV0Ldt
  deriveV0Hmac := deriveV0Hmac
  computeNonce := computeNonce
  v1Decrypt := v1Decrypt
  deriveV1Mic := deriveV1Mic
  ed25519Verify := ed25519Verify

end Config

end Sys2Proof
end

