-- ==== Sys2Proof/Machine/State.lean ====
section
/-! DEFINITION. The state of the engine, the reasons a step can stop, and the state after reset
(`10_state.md` R20 to R39). -/

namespace Sys2Proof.Machine

/-- The outcome codes of `60_exceptions.md` R281: "a model's code type has exactly thirteen values"
(`93_implementation_defined.md` U20). -/
inductive ErrCode where
  | ok
  | dataTooShort
  | dataTooLong
  | invalidLength
  | invalidStructure
  | noMatchingCredentials
  | arenaOutOfSpace
  | illegalCommand
  | addrRange
  | keyNotLoaded
  | badKeyLength
  | credCountRange
  | panic
deriving DecidableEq, Repr

/-- An XtsKey: "two independent AES keys packed end-to-end" (`41_xts.md` R140). -/
structure XtsKey where
  /-- Encrypts and decrypts data blocks. -/
  primary : Bytes
  /-- Encrypts the initial tweak. -/
  tweak : Bytes
deriving DecidableEq, Repr

/-- An LdtKey, the content of the two key slots (`10_state.md` R32, `41_xts.md` R141). -/
structure LdtKey where
  /-- KEY[1]. -/
  key1 : XtsKey
  /-- KEY[2]. -/
  key2 : XtsKey
deriving DecidableEq, Repr

/-- DMEM and ARENA: the bytes that have been written, at rising addresses. An address that is not
listed holds no defined byte (`10_state.md` R38), so no listed entry can equal what it reads as. -/
abbrev Memory := List Host.Cell

/-- The canonical form: addresses strictly rising. -/
def Memory.wf (m : Memory) : Bool := decide (m.Pairwise fun x y => x.1 < y.1)

/-- What the host can do to the engine, one access at a time: "There is no other way to change the
state" (`20_memory.md` R74). Register accesses are of whole words, DMEM and ARENA accesses of one byte
(R65). -/
inductive HostStep where
  /-- `HostWriteReg(off, v)`; at offset 0x000 it writes CMD and runs a command. -/
  | writeReg (off : Nat) (v : Word)
  /-- `HostReadReg(off)`. -/
  | readReg (off : Nat)
  /-- `HostWriteDmem(a, v)`. -/
  | writeDmem (a : Nat) (v : Byte)
  /-- `HostReadDmem(a)`. -/
  | readDmem (a : Nat)
  /-- `HostReadArena(a)`. -/
  | readArena (a : Nat)
  /-- `Reset` (`70_reset_and_hazards.md` R320). -/
  | reset
deriving DecidableEq, Repr

/-- What the host's last read gave it. -/
inductive ReadData where
  /-- The host has read nothing yet. -/
  | none
  /-- The value of a register. -/
  | word (v : Word)
  /-- A byte of DMEM or of the arena. -/
  | byte (v : Byte)
deriving DecidableEq, Repr

/-- Why the machine stops: a host access to an address that does not exist (`20_memory.md` R65: "an
access at or beyond the size is not a step the model offers"). No command raises one. -/
inductive Fault where
  /-- Raised by a host register access at an offset beyond the 64 words of REG. Safe: the spec gives
  the access no effect, and a run that makes it just ends. -/
  | registerOutside (off : Nat)
  /-- Raised by a host access to DMEM at or beyond `DMEM_BYTES`. Safe, for the same reason. -/
  | dmemOutside (a : Nat)
  /-- Raised by a host read of the arena at or beyond `ARENA_BYTES`. Safe, for the same reason. -/
  | arenaOutside (a : Nat)
deriving DecidableEq, Repr

/-- Why the model gives a step no meaning. -/
inductive Refusal where
  /-- Raised by an arm of `exec` that has no meaning yet (none has). Safe: the run just ends. -/
  | notModelled (mnemonic : String)
  /-- Raised by a host register access that is not aligned to a word (`20_memory.md` R65: "what a
  narrower or misaligned REG access does is outside the model"). Safe: the run just ends. -/
  | misalignedRegister (off : Nat)
deriving DecidableEq, Repr

/-- The state: the registers of `10_state.md` R22, the key slots of R32, DMEM and ARENA (R20), and
three fields of the model itself: `draws`, `host` and `readData` (log entries 4 and 5). -/
structure State where
  /-- STATUS.DONE, R24. -/
  done : Bool
  /-- STATUS.MATCH, R24. -/
  matched : Bool
  /-- STATUS.PANIC, R24. -/
  panic : Bool
  /-- STATUS.ERR, R24 and R281. -/
  err : ErrCode
  /-- ERRINFO, R25. -/
  errinfo : Word
  /-- ADDR, R26. -/
  addr : Word
  /-- LEN, R26. -/
  len : Word
  /-- BLKIDX, R26. -/
  blkidx : Word
  /-- CRED_BASE, R29. -/
  credBase : Word
  /-- CRED_COUNT, R29. -/
  credCount : Word
  /-- CRED_IDX, R29. -/
  credIdx : Word
  /-- ARENA_PTR, R30. -/
  arenaPtr : Word
  /-- RES_ADDR, R30. -/
  resAddr : Word
  /-- RES_LEN, R30. -/
  resLen : Word
  /-- ADV_HDR bits [7:0], R26; its other bits read 0. -/
  advHdr : Byte
  /-- TWEAK0 to TWEAK3, R26. -/
  tweak : Block
  /-- PADVAL0 to PADVAL3, R26. -/
  padval : Block
  /-- SIRC_SALT0 to SIRC_SALT3, R31. -/
  sircSalt : Block
  /-- SIRC_SALT_LEN, R31. -/
  sircSaltLen : Word
  /-- SIRC_NONCE0 to SIRC_NONCE2, R31. -/
  sircNonce : Nonce
  /-- SIRC_TOKEN0 to SIRC_TOKEN3, R31. -/
  sircToken : Block
  /-- KEY[1] and KEY[2], written both at once, "no value" before the first successful KEY_LOAD (R32,
  R37). STATUS.KEYS_VALID is 1 exactly when they hold a value and is read off this field. -/
  keys : Option LdtKey
  /-- DMEM, R33. -/
  dmem : Memory
  /-- ARENA, R34. -/
  arena : Memory
  /-- The model's own: how many memory reads have been made, which numbers the free draws of R38. -/
  draws : Nat
  /-- The model's own: the accesses the host will make, the next one first. -/
  host : List HostStep
  /-- The model's own: what the host's last read gave it. -/
  readData : ReadData
deriving DecidableEq, Repr

/-- The machine right after reset (`10_state.md` R37, `70_reset_and_hazards.md` R321). -/
def State.reset : State where
  done := false
  matched := false
  panic := false
  err := .ok
  errinfo := 0
  addr := 0
  len := 0
  blkidx := 0
  credBase := 0
  credCount := 0
  credIdx := 0
  arenaPtr := 0
  resAddr := 0
  resLen := 0
  advHdr := 0
  tweak := 0
  padval := 0
  sircSalt := 0
  sircSaltLen := 0
  sircNonce := 0
  sircToken := 0
  keys := none
  dmem := []
  arena := []
  draws := 0
  host := []
  readData := .none

end Sys2Proof.Machine
end

