-- ==== Sys2Proof/Machine/Ops.lean ====
section
/-! DEFINITION. The shared operations over memory and registers, and the three ways a command ends:
with success, with an error, with a panic (`60_exceptions.md` R285, R292, R293). -/

namespace Sys2Proof.Machine

/-! ### Memory -/

/-- The byte written at an address, `none` where nothing defines it (`10_state.md` R38). -/
def Memory.get : Memory → Nat → Option Byte
  | [], _ => none
  | (a', v) :: m, a => if a' = a then some v else Memory.get m a

/-- The memory after one byte is written; the entries stay at rising addresses. -/
def Memory.set : Memory → Nat → Byte → Memory
  | [], a, v => [(a, v)]
  | (a', v') :: m, a, v =>
    if a < a' then (a, v) :: (a', v') :: m
    else if a = a' then (a, v) :: m
    else (a', v') :: Memory.set m a v

/-- `MemWrite(a, |bs|, bs)`: byte 0 at the lowest address (`00_scope.md` R13, `20_memory.md` R63). -/
def Memory.writeBytes : Memory → Nat → Bytes → Memory
  | m, _, [] => m
  | m, a, b :: bs => Memory.writeBytes (Memory.set m a b) (a + 1) bs

/-- The byte the read numbered `draw` finds at an address: the byte written there, else a free draw
(`10_state.md` R38). -/
def Memory.readByte (m : Memory) (draw a : Nat) : Byte :=
  (Memory.get m a).getD (Config.freeByte draw a)

/-- `MemRead(a, n)`: the byte at the lowest address first (`00_scope.md` R13). -/
def Memory.readBytes (m : Memory) (draw a n : Nat) : Bytes :=
  (List.range n).map fun j => Memory.readByte m draw (a + j)

/-- The state after one memory read: the next read draws anew. -/
def State.nextDraw (s : State) : State := { s with draws := s.draws + 1 }

/-- The n bytes of DMEM from address a, as the next read finds them (`00_scope.md` R13). -/
def State.dmemBytes (s : State) (a n : Nat) : Bytes := Memory.readBytes s.dmem s.draws a n

/-- `MemWrite` on DMEM (`00_scope.md` R13). -/
def State.writeDmem (s : State) (a : Nat) (bs : Bytes) : State :=
  { s with dmem := Memory.writeBytes s.dmem a bs }

/-- `ArenaWrite` (`00_scope.md` R13). -/
def State.writeArena (s : State) (a : Nat) (bs : Bytes) : State :=
  { s with arena := Memory.writeBytes s.arena a bs }

/-- The byte the host finds in the arena: "every ARENA byte at or above ARENA_PTR has an unspecified
value", and below it the byte delivered there (`10_state.md` R34, R38). -/
def State.arenaByte (s : State) (a : Nat) : Byte :=
  if a < s.arenaPtr.toNat then Memory.readByte s.arena s.draws a else Config.freeByte s.draws a

/-! ### Registers the commands write -/

/-- `x[TWEAK] <- v` (`00_scope.md` R12). -/
def State.setTweak (s : State) (v : Block) : State := { s with tweak := v }

/-- Both key slots written at once (`10_state.md` R32); KEYS_VALID is then 1. -/
def State.setKeys (s : State) (k : LdtKey) : State := { s with keys := some k }

/-- `x[CRED_IDX] <- v` (`45_resolve.md` R238). -/
def State.setCredIdx (s : State) (v : Word) : State := { s with credIdx := v }

/-- The SIRC registers written (`44_codec_frames.md` R219). -/
def State.setSirc (s : State) (salt : Block) (saltLen : Word) (nonce : Nonce) (token : Block) : State :=
  { s with sircSalt := salt, sircSaltLen := saltLen, sircNonce := nonce, sircToken := token }

/-- `x[ARENA_PTR] <- v` (`46_arena.md` R271, R272). -/
def State.setArenaPtr (s : State) (v : Word) : State := { s with arenaPtr := v }

/-- `x[RES_ADDR] <- a; x[RES_LEN] <- n` (`45_resolve.md` R239). -/
def State.setResult (s : State) (a n : Word) : State := { s with resAddr := a, resLen := n }

/-! ### How a command ends -/

/-- What every ending but a panic writes: DONE, MATCH, ERR and ERRINFO (`10_state.md` R28). -/
def State.finish (s : State) (matched : Bool) (code : ErrCode) (info : Word) : State :=
  { s with done := true, matched := matched, err := code, errinfo := info }

/-- `raise E(info)`, the error entry (`60_exceptions.md` R292). Control returns to the host: nothing is
saved, no mode changes, and there is no return instruction (R295). -/
def State.raise (s : State) (code : ErrCode) (info : Word) : State := s.finish false code info

/-- `succeed` (`60_exceptions.md` R293). -/
def State.succeed (s : State) : State := s.finish false .ok 0

/-- `succeed with MATCH <- 1` (`60_exceptions.md` R293, `45_resolve.md` R239). -/
def State.succeedMatch (s : State) : State := s.finish true .ok 0

/-- `panic`, the panic entry (`60_exceptions.md` R285). -/
def State.enterPanic (s : State) : State :=
  { s with panic := true, done := false, matched := false, err := .panic, errinfo := 0 }

/-- `Reset`, the only way out of the panic state (`70_reset_and_hazards.md` R320). The fields that are
the model's own go on: the host's accesses, what it last read, and the numbering of free draws. -/
def State.afterReset (s : State) : State :=
  { State.reset with draws := s.draws, host := s.host, readData := s.readData }

end Sys2Proof.Machine
end

