-- ==== Sys2Proof/Machine/Arena.lean ====
section
/-! DEFINITION. The deserialization arena and the command ARENA_RESET (`46_arena.md`). -/

namespace Sys2Proof.Machine

/-- `Allocate(len)`: the address, and the state with the bump pointer moved; `none` when there is not
room (`46_arena.md` R271). -/
def allocate (E : Engine) (len : Nat) (s : State) : Option (Nat × State) :=
  if E.arenaBytes < s.arenaPtr.toNat + len then none
  else some (s.arenaPtr.toNat, s.setArenaPtr (BitVec.ofNat 32 (s.arenaPtr.toNat + len)))

/-- `deliver(pt)` (`45_resolve.md` R239). -/
def deliver (E : Engine) (pt : Bytes) (s : State) : State :=
  match allocate E pt.length s with
  | none => s.raise .arenaOutOfSpace (BitVec.ofNat 32 pt.length)
  | some (a, s') =>
    ((s'.writeArena a pt).setResult (BitVec.ofNat 32 a) (BitVec.ofNat 32 pt.length)).succeedMatch

/-- ARENA_RESET (`46_arena.md` R272). -/
def arenaReset (s : State) : State := (s.setArenaPtr 0).succeed

/-- The meaning of ARENA_RESET. -/
def execArenaReset (s : State) : Host.Outcome State Fault Refusal := .next (arenaReset s)

end Sys2Proof.Machine
end

