-- ==== Sys2Proof/Machine/Operands.lean ====
section
/-! DEFINITION. The operands of the commands: "Every operand of every command comes from a fixed
register" (`30_encoding.md` R92). -/

namespace Sys2Proof.Machine

/-- The range check: `base + n > DMEM_BYTES`, in unbounded naturals (`30_encoding.md` R92,
`60_exceptions.md` R287). -/
def outOfRange (E : Engine) (base : Word) (n : Nat) : Bool := decide (E.dmemBytes < base.toNat + n)

/-- The detail of `AddrRange`: `max(base, DMEM_BYTES)`, truncated to 32 bits (`60_exceptions.md` R287). -/
def rangeInfo (E : Engine) (base : Word) : Word := BitVec.ofNat 32 (max base.toNat E.dmemBytes)

/-- `raise AddrRange(max(base, DMEM_BYTES))` (`60_exceptions.md` R287). -/
def State.raiseRange (E : Engine) (s : State) (base : Word) : State :=
  s.raise .addrRange (rangeInfo E base)

/-- The buffer, tail, blob or frame DMEM[ADDR .. ADDR+LEN) (`30_encoding.md` R92). -/
def State.buffer (s : State) : Bytes := s.dmemBytes s.addr.toNat s.len.toNat

/-- The XtsKey a KSEL bit selects (`41_xts.md` R149). -/
def LdtKey.select (k : LdtKey) : KeySlot → XtsKey
  | .key1 => k.key1
  | .key2 => k.key2

/-- An XtsKey split into its two AES keys (`41_xts.md` R140). -/
def xtsKeyOf (E : Engine) (x : Bytes) : XtsKey where
  primary := slice x 0 E.aesKeySize.keyBytes
  tweak := slice x E.aesKeySize.keyBytes (2 * E.aesKeySize.keyBytes)

/-- A key blob split into an LdtKey, key1 first (`41_xts.md` R141). -/
def ldtKeyOf (E : Engine) (b : Bytes) : LdtKey where
  key1 := xtsKeyOf E (slice b 0 E.aesKeySize.xtsKeyBytes)
  key2 := xtsKeyOf E (slice b E.aesKeySize.xtsKeyBytes (2 * E.aesKeySize.xtsKeyBytes))

/-- The salt length `SL` a SALT16 bit names (`44_codec_frames.md` R220). -/
def saltBytes : SaltKind → Nat
  | .short => 2
  | .extended => 16

/-- The trailer length `TL` a SIGMODE bit names (`44_codec_frames.md` R213). -/
def trailerBytes (E : Engine) : VerifyMode → Nat
  | .mic => E.micLen
  | .signature => E.sigLen

/-- A credential entry (`45_resolve.md` R236). -/
structure CredEntry where
  /-- The 32-byte key seed. -/
  seed : Bytes
  /-- The expected HMAC for V0. -/
  v0Exp : Bytes
  /-- The public key for V1 signature mode. -/
  pk : Bytes
deriving DecidableEq, Repr

/-- The fields of an entry's bytes (`45_resolve.md` R236). -/
def credEntryOf (E : Engine) (e : Bytes) : CredEntry where
  seed := slice e 0 32
  v0Exp := slice e 32 (32 + E.macLen)
  pk := slice e (32 + E.macLen) E.credStride

/-- The address of entry i (`45_resolve.md` R235). -/
def State.credAddr (E : Engine) (s : State) (i : Nat) : Nat := s.credBase.toNat + i * E.credStride

/-- Entry i as the next memory read finds it (`45_resolve.md` R238). -/
def State.credEntry (E : Engine) (s : State) (i : Nat) : CredEntry :=
  credEntryOf E (s.dmemBytes (s.credAddr E i) E.credStride)

end Sys2Proof.Machine
end

