-- ==== Sys2Proof/Machine/Padding.lean ====
section
/-! DEFINITION. The padding pipeline and the command PAD (`42_padding.md`). -/

namespace Sys2Proof.Machine

/-- `PadDefault(tail)` = `tail || 80 || 0^(15 - |tail|)` (`42_padding.md` R170). -/
def padDefault (tail : Bytes) : Block := blockOfBytes (tail ++ 0x80 :: zeros (15 - tail.length))

/-- `PadXor(V, tail)` (`42_padding.md` R171). -/
def padXor (v : Block) (tail : Bytes) : Block := padDefault tail ^^^ v

/-- `PadTweak(psel, V, tail)` (`42_padding.md` R172); its callers have tested that the tail has at most
15 bytes. -/
def padTweak (p : Padder) (v : Block) (tail : Bytes) : Block :=
  match p with
  | .default => padDefault tail
  | .xor => padXor v tail

/-- PAD (`42_padding.md` R174): the length test comes first and panics. -/
def pad (E : Engine) (p : Padder) (s : State) : State :=
  if 15 < s.len.toNat then s.enterPanic
  else if outOfRange E s.addr s.len.toNat then s.raiseRange E s.addr
  else (s.nextDraw.setTweak (padTweak p s.padval s.buffer)).succeed

/-- The meaning of PAD. -/
def execPad (p : Padder) (s : State) : Host.Outcome State Fault Refusal := .next (pad Config.engine p s)

end Sys2Proof.Machine
end

