-- ==== Sys2Proof/Machine/Flags.lean ====
section
/-! DEFINITION. The flags: the fields of STATUS (`10_state.md` R24 and R28, `60_exceptions.md` R281). -/

namespace Sys2Proof.Machine

/-- The code numbers of `60_exceptions.md` R281. -/
def ErrCode.number : ErrCode → BitVec 8
  | .ok => 0x00
  | .dataTooShort => 0x01
  | .dataTooLong => 0x02
  | .invalidLength => 0x03
  | .invalidStructure => 0x04
  | .noMatchingCredentials => 0x05
  | .arenaOutOfSpace => 0x06
  | .illegalCommand => 0x07
  | .addrRange => 0x08
  | .keyNotLoaded => 0x09
  | .badKeyLength => 0x0A
  | .credCountRange => 0x0B
  | .panic => 0xFF

/-- STATUS.KEYS_VALID: "1 once a KEY_LOAD has succeeded; only reset clears it" (`10_state.md` R24,
R32): the key slots hold a value. -/
def State.keysValid (s : State) : Bool := s.keys.isSome

/-- The value of the STATUS register (`10_state.md` R24). BUSY "always reads 0", and so do bits [7:5]
and [31:16]. -/
def State.statusWord (s : State) : Word :=
  0#16 ++ s.err.number ++ 0#3 ++ BitVec.ofBool s.keysValid ++ BitVec.ofBool s.panic ++
    BitVec.ofBool s.matched ++ BitVec.ofBool s.done ++ 0#1

end Sys2Proof.Machine
end

