-- ==== Sys2Proof/Machine/Tweak.lean ====
section
/-! DEFINITION. Tweak arithmetic and the commands TWK_STEP and TWK_ADV (`40_tweak.md`). -/

namespace Sys2Proof.Machine

/-- `Double(T)` with reduction constant g (`40_tweak.md` R120): shift left by one bit, and XOR the
constant into byte 0 when the top bit is carried out. -/
def double (g : Byte) (t : Block) : Block := (t <<< 1) ^^^ (if t.msb then g.setWidth 128 else 0)

/-- `Advance(T, k)`: `Double` applied k times (`40_tweak.md` R122). -/
def advance (g : Byte) (t : Block) : Nat → Block
  | 0 => t
  | k + 1 => double g (advance g t k)

/-- TWK_STEP (`40_tweak.md` R124). -/
def twkStep (E : Engine) (s : State) : State := (s.setTweak (double E.gfReduce s.tweak)).succeed

/-- TWK_ADV (`40_tweak.md` R125): all 32 bits of BLKIDX are the count. -/
def twkAdv (E : Engine) (s : State) : State :=
  (s.setTweak (advance E.gfReduce s.tweak s.blkidx.toNat)).succeed

/-- The meaning of TWK_STEP. -/
def execTwkStep (s : State) : Host.Outcome State Fault Refusal := .next (twkStep Config.engine s)

/-- The meaning of TWK_ADV. -/
def execTwkAdv (s : State) : Host.Outcome State Fault Refusal := .next (twkAdv Config.engine s)

end Sys2Proof.Machine
end

