-- ==== Sys2Proof/Machine/Xts.lean ====
section
/-! DEFINITION. Keys, the XTS data-unit cipher and the commands KEY_LOAD, XTS_ENC and XTS_DEC
(`41_xts.md`). -/

namespace Sys2Proof.Machine

/-- `BlkEnc(K, T, B)` (`41_xts.md` R143). -/
def blkEnc (E : Engine) (k : Bytes) (t b : Block) : Block := E.aesEnc k (b ^^^ t) ^^^ t

/-- `BlkDec(K, T, B)` (`41_xts.md` R143). -/
def blkDec (E : Engine) (k : Bytes) (t b : Block) : Block := E.aesDec k (b ^^^ t) ^^^ t

/-- `T_j`: the encrypted tweak advanced j times (`41_xts.md` R144); the tweak key encrypts also when
decrypting (R148). -/
def mask (E : Engine) (x : XtsKey) (t : Block) (j : Nat) : Block :=
  advance E.gfReduce (E.aesEnc x.tweak t) j

/-- `U_j = U[16j .. 16j+16)` as a block (`41_xts.md` R146). -/
def unitBlock (u : Bytes) (j : Nat) : Block := blockOfBytes (slice u (16 * j) (16 * j + 16))

/-- Blocks 0 to n-1 of a data unit encrypted, each under its mask (`41_xts.md` R146). -/
def encBlocks (E : Engine) (x : XtsKey) (t : Block) (u : Bytes) (n : Nat) : Bytes :=
  (List.range n).flatMap fun j => blockBytes (blkEnc E x.primary (mask E x t j) (unitBlock u j))

/-- Blocks 0 to n-1 of a data unit decrypted, each under its mask (`41_xts.md` R148). -/
def decBlocks (E : Engine) (x : XtsKey) (t : Block) (u : Bytes) (n : Nat) : Bytes :=
  (List.range n).flatMap fun j => blockBytes (blkDec E x.primary (mask E x t j) (unitBlock u j))

/-- The last two chunks of a data unit with m whole blocks and b > 0 further bytes, encrypted
(`41_xts.md` R147): the final chunk borrows the tail of the previous ciphertext block. -/
def encSteal (E : Engine) (x : XtsKey) (t : Block) (u : Bytes) (m b : Nat) : Bytes :=
  let cc := blockBytes (blkEnc E x.primary (mask E x t (m - 1)) (unitBlock u (m - 1)))
  let pp := u.drop (16 * m) ++ cc.drop b
  blockBytes (blkEnc E x.primary (mask E x t m) (blockOfBytes pp)) ++ cc.take b

/-- The same decrypted (`41_xts.md` R148): the mask `T_m` comes first. -/
def decSteal (E : Engine) (x : XtsKey) (t : Block) (u : Bytes) (m b : Nat) : Bytes :=
  let pp := blockBytes (blkDec E x.primary (mask E x t m) (unitBlock u (m - 1)))
  let cc := u.drop (16 * m) ++ pp.drop b
  blockBytes (blkDec E x.primary (mask E x t (m - 1)) (blockOfBytes cc)) ++ pp.take b

/-- `XtsEncUnit(X, t, U)`, |U| = 16m + b (`41_xts.md` R145 to R147). -/
def xtsEncUnit (E : Engine) (x : XtsKey) (t : Block) (u : Bytes) : Bytes :=
  let m := u.length / 16
  let b := u.length % 16
  if b = 0 then encBlocks E x t u m else encBlocks E x t u (m - 1) ++ encSteal E x t u m b

/-- `XtsDecUnit(X, t, U)`, |U| = 16m + b (`41_xts.md` R148). -/
def xtsDecUnit (E : Engine) (x : XtsKey) (t : Block) (u : Bytes) : Bytes :=
  let m := u.length / 16
  let b := u.length % 16
  if b = 0 then decBlocks E x t u m else decBlocks E x t u (m - 1) ++ decSteal E x t u m b

/-- `XtsEncBlock(X, t, B)`, a data unit of one block written out (`41_xts.md` R152). -/
def xtsEncBlock (E : Engine) (x : XtsKey) (t b : Block) : Block :=
  blkEnc E x.primary (E.aesEnc x.tweak t) b

/-- `XtsDecBlock(X, t, B)` (`41_xts.md` R152). -/
def xtsDecBlock (E : Engine) (x : XtsKey) (t b : Block) : Block :=
  blkDec E x.primary (E.aesEnc x.tweak t) b

/-- KEY_LOAD (`41_xts.md` R142). -/
def keyLoad (E : Engine) (s : State) : State :=
  if s.len.toNat ≠ E.aesKeySize.ldtKeyBytes then s.raise .badKeyLength s.len
  else if outOfRange E s.addr E.aesKeySize.ldtKeyBytes then s.raiseRange E s.addr
  else (s.nextDraw.setKeys (ldtKeyOf E s.buffer)).succeed

/-- The tests XTS_ENC and XTS_DEC make, in order, and then the replacement of the buffer by its image
under `f` of the selected key and the tweak (`41_xts.md` R149, R150; `20_memory.md` R75). -/
def xtsCommand (E : Engine) (f : XtsKey → Block → Bytes → Bytes) (k : KeySlot) (s : State) : State :=
  match s.keys with
  | none => s.raise .keyNotLoaded 0
  | some ks =>
    if s.len.toNat < 16 then s.raise .dataTooShort s.len
    else if 2 ^ 24 < s.len.toNat then s.raise .dataTooLong s.len
    else if outOfRange E s.addr s.len.toNat then s.raiseRange E s.addr
    else (s.nextDraw.writeDmem s.addr.toNat (f (ks.select k) s.tweak s.buffer)).succeed

/-- The meaning of KEY_LOAD. -/
def execKeyLoad (s : State) : Host.Outcome State Fault Refusal := .next (keyLoad Config.engine s)

/-- The meaning of XTS_ENC (`41_xts.md` R149). -/
def execXtsEnc (k : KeySlot) (s : State) : Host.Outcome State Fault Refusal :=
  .next (xtsCommand Config.engine (xtsEncUnit Config.engine) k s)

/-- The meaning of XTS_DEC (`41_xts.md` R150). -/
def execXtsDec (k : KeySlot) (s : State) : Host.Outcome State Fault Refusal :=
  .next (xtsCommand Config.engine (xtsDecUnit Config.engine) k s)

end Sys2Proof.Machine
end

