-- ==== Sys2Proof/Machine/Ldt.lean ====
section
/-! DEFINITION. The wide-block LDT construction and the commands MIX, LDT_ENC and LDT_DEC
(`43_ldt.md`). -/

namespace Sys2Proof.Machine

/-- `Mix(B)[i] = B[sigma(i)]` (`43_ldt.md` R185). -/
def mixBlock (sigma : Equiv.Perm (Fin 16)) (b : Block) : Block :=
  blockOfBytes ((List.finRange 16).map fun i => byteAt b (sigma i))

/-- The tail step `TailOp(key2, t2, x)`: the tail XOR the first |x| bytes of the XTS encryption of the
zero block (`43_ldt.md` R190); empty when x is. -/
def tailOp (E : Engine) (key2 : XtsKey) (t2 : Block) (x : Bytes) : Bytes :=
  xorBytes x (blockBytes (xtsEncBlock E key2 t2 0))

/-- `LdtEncrypt(key1, key2, psel, V, M)` (`43_ldt.md` R188, R189). -/
def ldtEncrypt (E : Engine) (k : LdtKey) (p : Padder) (v : Block) (msg : Bytes) : Bytes :=
  let first := blockOfBytes (slice msg 0 16)
  let tail := msg.drop 16
  let cf := xtsEncBlock E k.key1 (padTweak p v tail) first
  let t2 := mixBlock E.mixPerm cf
  blockBytes cf ++ tailOp E k.key2 t2 tail

/-- `LdtDecrypt(key1, key2, psel, V, C)` (`43_ldt.md` R191): the tail is recovered first. -/
def ldtDecrypt (E : Engine) (k : LdtKey) (p : Padder) (v : Block) (c : Bytes) : Bytes :=
  let cf := blockOfBytes (slice c 0 16)
  let t2 := mixBlock E.mixPerm cf
  let tail := tailOp E k.key2 t2 (c.drop 16)
  blockBytes (xtsDecBlock E k.key1 (padTweak p v tail) cf) ++ tail

/-- MIX (`43_ldt.md` R186). -/
def mix (E : Engine) (s : State) : State := (s.setTweak (mixBlock E.mixPerm s.tweak)).succeed

/-- The tests LDT_ENC and LDT_DEC make, in order, and then the replacement of the buffer by its image
under `f` of the loaded key, the padder and PADVAL (`43_ldt.md` R193, R194; `20_memory.md` R75). -/
def ldtCommand (E : Engine) (f : LdtKey → Padder → Block → Bytes → Bytes) (p : Padder) (s : State) :
    State :=
  match s.keys with
  | none => s.raise .keyNotLoaded 0
  | some ks =>
    if s.len.toNat < 16 ∨ 31 < s.len.toNat then s.raise .invalidLength s.len
    else if outOfRange E s.addr s.len.toNat then s.raiseRange E s.addr
    else (s.nextDraw.writeDmem s.addr.toNat (f ks p s.padval s.buffer)).succeed

/-- The meaning of MIX. -/
def execMix (s : State) : Host.Outcome State Fault Refusal := .next (mix Config.engine s)

/-- The meaning of LDT_ENC (`43_ldt.md` R193). -/
def execLdtEnc (p : Padder) (s : State) : Host.Outcome State Fault Refusal :=
  .next (ldtCommand Config.engine (ldtEncrypt Config.engine) p s)

/-- The meaning of LDT_DEC (`43_ldt.md` R194). -/
def execLdtDec (p : Padder) (s : State) : Host.Outcome State Fault Refusal :=
  .next (ldtCommand Config.engine (ldtDecrypt Config.engine) p s)

end Sys2Proof.Machine
end

