-- ==== Sys2Proof/Machine/Frames.lean ====
section
/-! DEFINITION. Frames, their structure checks and what one credential must satisfy to match
(`44_codec_frames.md`). -/

namespace Sys2Proof.Machine

/-- The fields of a V0 frame (`44_codec_frames.md` R210). -/
structure V0Frame where
  /-- The 2-byte salt. -/
  salt : Bytes
  /-- The 14-byte identity token field, exposed and otherwise unused (R221). -/
  token : Bytes
  /-- The LDT ciphertext. -/
  ct : Bytes
deriving DecidableEq, Repr

/-- "a well-formed frame has 32 <= n <= 47" (`44_codec_frames.md` R210, R211). -/
def v0LengthLegal (n : Nat) : Bool := decide (32 ≤ n ∧ n ≤ 47)

/-- The triple of `V0Parse` (`44_codec_frames.md` R210, R211); the length has been checked. -/
def v0Fields (f : Bytes) : V0Frame where
  salt := slice f 0 2
  token := slice f 2 16
  ct := f.drop 16

/-- `V0Attempt(sd, exp, psel, V, ct)`: the decrypted payload on a match, `none` for NoMatch
(`44_codec_frames.md` R212). -/
def v0Attempt (E : Engine) (seed exp : Bytes) (p : Padder) (v : Block) (ct : Bytes) : Option Bytes :=
  let k := ldtKeyOf E (E.deriveV0Ldt seed).toList
  let pt := ldtDecrypt E k p v ct
  let mac := (E.hmac E.macLen (E.deriveV0Hmac seed) (slice pt 0 14)).toList
  if mac = exp then some pt else none

/-- The fields of a V1 section (`44_codec_frames.md` R213). -/
structure V1Frame where
  /-- The format byte, not interpreted. -/
  format : Byte
  /-- The salt, 2 or 16 bytes. -/
  salt : Bytes
  /-- The 16-byte identity token as it stood on the wire. -/
  tok : Block
  /-- The length byte, not checked. -/
  lenbyte : Byte
  /-- The data-element bytes. -/
  de : Bytes
  /-- The MIC or signature. -/
  trailer : Bytes
deriving DecidableEq, Repr

/-- The length below which a V1 section cannot hold its fixed fields (`44_codec_frames.md` R214). -/
def v1LengthLegal (n sl tl : Nat) : Bool := decide (18 + sl + tl ≤ n)

/-- The fields of `V1Parse(F, SL, TL)` (`44_codec_frames.md` R213, R214); the length has been checked. -/
def v1Fields (f : Bytes) (sl tl : Nat) : V1Frame where
  format := f.getD 0 0
  salt := slice f 1 (1 + sl)
  tok := blockOfBytes (slice f (1 + sl) (17 + sl))
  lenbyte := f.getD (17 + sl) 0
  de := slice f (18 + sl) (f.length - tl)
  trailer := slice f (f.length - tl) f.length

/-- `Canon(tok_pt, de_pt)`, the canonical byte sequence (`44_codec_frames.md` R216). -/
def canon (E : Engine) (hdr : Byte) (f : V1Frame) (tokPt : Block) (dePt : Bytes) : Bytes :=
  E.svcCtx ++ [hdr] ++ [f.format] ++ f.salt ++ bytesLe 12 (E.computeNonce f.salt) ++
    blockBytes tokPt ++ [f.lenbyte] ++ dePt

/-- `V1AttemptMic(sd, fields)` (`44_codec_frames.md` R217). -/
def v1AttemptMic (E : Engine) (seed : Bytes) (hdr : Byte) (sl : Nat) (f : V1Frame) : Option Bytes :=
  let pt := E.v1Decrypt seed f.salt (E.computeNonce f.salt) f.tok f.de
  let mic := (E.hmac E.micLen (E.deriveV1Mic seed sl) (canon E hdr f pt.1 pt.2.toList)).toList
  if mic = f.trailer then some (blockBytes pt.1 ++ pt.2.toList) else none

/-- `V1AttemptSig(sd, pk, fields)` (`44_codec_frames.md` R218). -/
def v1AttemptSig (E : Engine) (seed pk : Bytes) (hdr : Byte) (f : V1Frame) : Option Bytes :=
  let pt := E.v1Decrypt seed f.salt (E.computeNonce f.salt) f.tok f.de
  if E.ed25519Verify pk E.sigCtx (canon E hdr f pt.1 pt.2.toList) f.trailer then
    some (blockBytes pt.1 ++ pt.2.toList)
  else none

/-- The per-credential test of RESOLVE_V0 (`45_resolve.md` R246). -/
def attemptV0 (E : Engine) (p : Padder) (v : Block) (f : V0Frame) (e : CredEntry) : Option Bytes :=
  v0Attempt E e.seed e.v0Exp p v f.ct

/-- The per-credential test of RESOLVE_V1 (`45_resolve.md` R246). -/
def attemptV1 (E : Engine) (mode : VerifyMode) (hdr : Byte) (sl : Nat) (f : V1Frame) (e : CredEntry) :
    Option Bytes :=
  match mode with
  | .mic => v1AttemptMic E e.seed hdr sl f
  | .signature => v1AttemptSig E e.seed e.pk hdr f

/-- What RESOLVE_V0 writes into the SIRC registers (`44_codec_frames.md` R219). -/
def recordV0 (f : V0Frame) (s : State) : State :=
  s.setSirc (blockOfBytes (f.salt ++ zeros 14)) 2 0 (blockOfBytes (f.token ++ zeros 2))

/-- What RESOLVE_V1 writes into the SIRC registers (`44_codec_frames.md` R219). -/
def recordV1 (E : Engine) (sl : Nat) (f : V1Frame) (s : State) : State :=
  s.setSirc (blockOfBytes (f.salt ++ zeros (16 - sl))) (BitVec.ofNat 32 sl) (E.computeNonce f.salt) f.tok

end Sys2Proof.Machine
end

