-- ==== Sys2Proof/Machine/Resolve.lean ====
section
/-! DEFINITION. The identity-resolution loop and the commands RESOLVE_V0 and RESOLVE_V1
(`45_resolve.md`). -/

namespace Sys2Proof.Machine

/-- The loop of `45_resolve.md` R238 from entry i, with the number of entries left: each entry is read
once, in ascending order, and the first match ends it. -/
def resolveFrom (E : Engine) (attempt : CredEntry → Option Bytes) : Nat → Nat → State → State
  | i, 0, s => (s.setCredIdx (BitVec.ofNat 32 i)).raise .noMatchingCredentials 0
  | i, left + 1, s =>
    match attempt (s.credEntry E i) with
    | some pt => deliver E pt (s.nextDraw.setCredIdx (BitVec.ofNat 32 i))
    | none => resolveFrom E attempt (i + 1) left s.nextDraw

/-- `ResolveLoop(attempt)` (`45_resolve.md` R238): CRED_COUNT entries from entry 0. -/
def resolveLoop (E : Engine) (attempt : CredEntry → Option Bytes) (s : State) : State :=
  resolveFrom E attempt 0 s.credCount.toNat s

/-- The tests both RESOLVE commands make, in order, then the frame read, the SIRC registers written
and the loop (`45_resolve.md` R242, R243). -/
def resolve (E : Engine) (lengthLegal : Nat → Bool) (record : Bytes → State → State)
    (attempt : Bytes → CredEntry → Option Bytes) (s : State) : State :=
  if !lengthLegal s.len.toNat then s.raise .invalidStructure s.len
  else if outOfRange E s.addr s.len.toNat then s.raiseRange E s.addr
  else if E.ncredMax < s.credCount.toNat then s.raise .credCountRange s.credCount
  else if 0 < s.credCount.toNat && outOfRange E s.credBase (s.credCount.toNat * E.credStride) then
    s.raiseRange E s.credBase
  else resolveLoop E (attempt s.buffer) (record s.buffer s.nextDraw)

/-- RESOLVE_V0 (`45_resolve.md` R242). -/
def resolveV0 (E : Engine) (p : Padder) (s : State) : State :=
  resolve E v0LengthLegal (fun f => recordV0 (v0Fields f))
    (fun f => attemptV0 E p s.padval (v0Fields f)) s

/-- RESOLVE_V1 (`45_resolve.md` R243). -/
def resolveV1 (E : Engine) (salt : SaltKind) (mode : VerifyMode) (s : State) : State :=
  let sl := saltBytes salt
  let tl := trailerBytes E mode
  resolve E (fun n => v1LengthLegal n sl tl) (fun f => recordV1 E sl (v1Fields f sl tl))
    (fun f => attemptV1 E mode s.advHdr sl (v1Fields f sl tl)) s

/-- The meaning of RESOLVE_V0. -/
def execResolveV0 (p : Padder) (s : State) : Host.Outcome State Fault Refusal :=
  .next (resolveV0 Config.engine p s)

/-- The meaning of RESOLVE_V1. -/
def execResolveV1 (salt : SaltKind) (mode : VerifyMode) (s : State) : Host.Outcome State Fault Refusal :=
  .next (resolveV1 Config.engine salt mode s)

end Sys2Proof.Machine
end

