-- ==== Sys2Proof/Machine/Dispatch.lean ====
section
/-! DEFINITION. One arm per command: what `Exec(state, w)` does when w decodes to it
(`00_scope.md` R16, `30_encoding.md` R93). -/

namespace Sys2Proof.Machine

def exec (i : Instr) (s : State) : Host.Outcome State Fault Refusal :=
  match i with
  | .keyLoad => Sys2Proof.Machine.execKeyLoad s
  | .twkStep => Sys2Proof.Machine.execTwkStep s
  | .twkAdv => Sys2Proof.Machine.execTwkAdv s
  | .mix => Sys2Proof.Machine.execMix s
  | .pad psel => Sys2Proof.Machine.execPad psel s
  | .xtsEnc ksel => Sys2Proof.Machine.execXtsEnc ksel s
  | .xtsDec ksel => Sys2Proof.Machine.execXtsDec ksel s
  | .ldtEnc psel => Sys2Proof.Machine.execLdtEnc psel s
  | .ldtDec psel => Sys2Proof.Machine.execLdtDec psel s
  | .resolveV0 psel => Sys2Proof.Machine.execResolveV0 psel s
  | .resolveV1 salt16 sigmode => Sys2Proof.Machine.execResolveV1 salt16 sigmode s
  | .arenaReset => Sys2Proof.Machine.execArenaReset s

end Sys2Proof.Machine
end

