-- ==== Sys2Proof/Machine/Registers.lean ====
section
/-! DEFINITION. The register space REG as the host sees it: the map of `10_state.md` R22, the access
rights of R21, and reads and writes of one register. -/

namespace Sys2Proof.Machine

/-- The registers of the map (`10_state.md` R22); the words of a multi-word register are numbered. -/
inductive Reg where
  | cmd
  | status
  | errinfo
  | addr
  | len
  | blkidx
  | credBase
  | credCount
  | credIdx
  | arenaPtr
  | resAddr
  | resLen
  | advHdr
  | tweak (n : Fin 4)
  | padval (n : Fin 4)
  | sircSalt (n : Fin 4)
  | sircSaltLen
  | sircNonce (n : Fin 3)
  | sircToken (n : Fin 4)
deriving DecidableEq, Repr

/-- The access rights of a register (`10_state.md` R21). -/
inductive Access where
  /-- RW: the host reads back what was last written by host or engine. -/
  | readWrite
  /-- RO: host writes are ignored. -/
  | readOnly
  /-- WO: host reads return 0. -/
  | writeOnly
deriving DecidableEq, Repr

/-- The byte offset of a register (`10_state.md` R22). -/
def Reg.offset : Reg → Nat
  | .cmd => 0x000
  | .status => 0x004
  | .errinfo => 0x008
  | .addr => 0x00C
  | .len => 0x010
  | .blkidx => 0x014
  | .credBase => 0x018
  | .credCount => 0x01C
  | .credIdx => 0x020
  | .arenaPtr => 0x024
  | .resAddr => 0x028
  | .resLen => 0x02C
  | .advHdr => 0x030
  | .tweak n => 0x040 + 4 * n
  | .padval n => 0x050 + 4 * n
  | .sircSalt n => 0x060 + 4 * n
  | .sircSaltLen => 0x070
  | .sircNonce n => 0x074 + 4 * n
  | .sircToken n => 0x080 + 4 * n

/-- Every register, in the order of the map. -/
def Reg.all : List Reg :=
  [.cmd, .status, .errinfo, .addr, .len, .blkidx, .credBase, .credCount, .credIdx, .arenaPtr, .resAddr,
   .resLen, .advHdr, .tweak 0, .tweak 1, .tweak 2, .tweak 3, .padval 0, .padval 1, .padval 2, .padval 3,
   .sircSalt 0, .sircSalt 1, .sircSalt 2, .sircSalt 3, .sircSaltLen, .sircNonce 0, .sircNonce 1,
   .sircNonce 2, .sircToken 0, .sircToken 1, .sircToken 2, .sircToken 3]

/-- The register at an offset; `none` at a reserved offset (`10_state.md` R21, R39). -/
def Reg.at? (off : Nat) : Option Reg := Reg.all.find? fun r => r.offset == off

/-- The access column of the map (`10_state.md` R22). -/
def Reg.access : Reg → Access
  | .cmd => .writeOnly
  | .addr | .len | .blkidx | .credBase | .credCount | .advHdr | .tweak _ | .padval _ => .readWrite
  | .status | .errinfo | .credIdx | .arenaPtr | .resAddr | .resLen | .sircSalt _ | .sircSaltLen |
    .sircNonce _ | .sircToken _ => .readOnly

/-- What a host read of a register returns (`10_state.md` R22 to R31; CMD reads 0, R23). -/
def State.readReg (s : State) : Reg → Word
  | .cmd => 0
  | .status => s.statusWord
  | .errinfo => s.errinfo
  | .addr => s.addr
  | .len => s.len
  | .blkidx => s.blkidx
  | .credBase => s.credBase
  | .credCount => s.credCount
  | .credIdx => s.credIdx
  | .arenaPtr => s.arenaPtr
  | .resAddr => s.resAddr
  | .resLen => s.resLen
  | .advHdr => s.advHdr.setWidth 32
  | .tweak n => wordAt s.tweak n
  | .padval n => wordAt s.padval n
  | .sircSalt n => wordAt s.sircSalt n
  | .sircSaltLen => s.sircSaltLen
  | .sircNonce n => wordAt s.sircNonce n
  | .sircToken n => wordAt s.sircToken n

/-- What a host write of a register other than CMD does: an RW register takes the value (ADV_HDR only
its bits [7:0]), an RO register ignores it (`10_state.md` R21, `20_memory.md` R74). -/
def State.writeReg (s : State) (v : Word) : Reg → State
  | .addr => { s with addr := v }
  | .len => { s with len := v }
  | .blkidx => { s with blkidx := v }
  | .credBase => { s with credBase := v }
  | .credCount => { s with credCount := v }
  | .advHdr => { s with advHdr := v.setWidth 8 }
  | .tweak n => { s with tweak := setWordAt s.tweak n v }
  | .padval n => { s with padval := setWordAt s.padval n v }
  | .cmd | .status | .errinfo | .credIdx | .arenaPtr | .resAddr | .resLen | .sircSalt _ |
    .sircSaltLen | .sircNonce _ | .sircToken _ => s

end Sys2Proof.Machine
end

