-- ==== Sys2Proof/Machine/HostPort.lean ====
section
/-! DEFINITION. The host's accesses, each one atomic step (`20_memory.md` R65, R69, R74), and
`Exec(state, w)` on a command word (`00_scope.md` R16). -/

namespace Sys2Proof.Machine

/-- `Exec(state, w)`: a word that is not one of the 21 legal words raises `IllegalCommand(w)`
(`60_exceptions.md` R286), a legal one runs its command. -/
def execWord (w : Word) (s : State) : Host.Outcome State Fault Refusal :=
  match decodeWord w with
  | .error _ => .next (s.raise .illegalCommand w)
  | .ok i => exec i s

/-- A register access the model offers the host is of one aligned word of REG (`20_memory.md` R65);
the others stop, by name. -/
def onRegister (off : Nat) (k : Host.Outcome State Fault Refusal) : Host.Outcome State Fault Refusal :=
  if 0x100 ≤ off then .fault (.registerOutside off)
  else if off % 4 ≠ 0 then .refused (.misalignedRegister off)
  else k

/-- `HostWriteReg(off, v)` at an offset the model offers (`20_memory.md` R74, `10_state.md` R23). -/
def hostWriteReg (off : Nat) (v : Word) (s : State) : Host.Outcome State Fault Refusal :=
  if s.panic then .next s
  else
    match Reg.at? off with
    | none => .next s
    | some .cmd => execWord v s
    | some r => .next (s.writeReg v r)

/-- The value `HostReadReg(off)` gives: the register's, 0 at a reserved offset (`10_state.md` R21). -/
def State.registerValue (s : State) (off : Nat) : Word :=
  match Reg.at? off with
  | none => 0
  | some r => s.readReg r

/-- `HostWriteDmem(a, v)`, "ignored when PANIC = 1" (`20_memory.md` R74). -/
def hostWriteDmem (E : Engine) (a : Nat) (v : Byte) (s : State) : Host.Outcome State Fault Refusal :=
  if E.dmemBytes ≤ a then .fault (.dmemOutside a)
  else if s.panic then .next s
  else .next (s.writeDmem a [v])

/-- `HostReadDmem(a)`, allowed in every state (`20_memory.md` R74). -/
def hostReadDmem (E : Engine) (a : Nat) (s : State) : Host.Outcome State Fault Refusal :=
  if E.dmemBytes ≤ a then .fault (.dmemOutside a)
  else .next { s.nextDraw with readData := .byte (Memory.readByte s.dmem s.draws a) }

/-- `HostReadArena(a)`, allowed in every state (`20_memory.md` R74). -/
def hostReadArena (E : Engine) (a : Nat) (s : State) : Host.Outcome State Fault Refusal :=
  if E.arenaBytes ≤ a then .fault (.arenaOutside a)
  else .next { s.nextDraw with readData := .byte (s.arenaByte a) }

/-- One access of the host (`20_memory.md` R74). -/
def hostAccess (h : HostStep) (s : State) : Host.Outcome State Fault Refusal :=
  match h with
  | .writeReg off v => onRegister off (hostWriteReg off v s)
  | .readReg off => onRegister off (.next { s with readData := .word (s.registerValue off) })
  | .writeDmem a v => hostWriteDmem Config.engine a v s
  | .readDmem a => hostReadDmem Config.engine a s
  | .readArena a => hostReadArena Config.engine a s
  | .reset => .next s.afterReset

/-- The host's next access is taken off its list and made; without one the engine is idle and keeps
all its state (`60_exceptions.md` R304). -/
def hostNext (s : State) : Host.Outcome State Fault Refusal :=
  match s.host with
  | [] => .next s
  | h :: rest => hostAccess h { s with host := rest }

/-- The host access that issues an opcode-table word: a write of it to CMD (`10_state.md` R23). -/
def issue (nbits w : Nat) : HostStep := .writeReg 0x000 (tableWord nbits w)

end Sys2Proof.Machine
end

