-- ==== Sys2Proof/Machine/Step.lean ====
section
/-! DEFINITION. One step of the machine. The engine has no program counter and fetches nothing
(`10_state.md` R27): "the order of commands is the order of the host's writes to CMD", so a step is the
host's next access. -/

namespace Sys2Proof.Machine

/-- One step: the host's next access (`20_memory.md` R74). -/
def step (s : State) : Host.Outcome State Fault Refusal := hostNext s

/-- s with a write of the given command word to CMD as the host's next access, so that the very next
step runs it (log entry 5). -/
def State.withFetchWord (s : State) (nbits w : Nat) : State := { s with host := issue nbits w :: s.host }

end Sys2Proof.Machine
end

