-- ==== Sys2Proof/Machine/Assembler.lean ====
section
/-! DEFINITION. The notation for host programs (`30_encoding.md` R98) and its pseudo-commands (R99),
as the host accesses they stand for. -/

namespace Sys2Proof.Machine

/-- `WR <REG>, <value>` for a one-word register. -/
def asmWr (r : Reg) (v : Word) : List HostStep := [.writeReg r.offset v]

/-- `WR TWEAK, <16 bytes>`: TWEAK0 first. -/
def asmWrTweak (b : Block) : List HostStep :=
  (List.finRange 4).map fun n => .writeReg (Reg.tweak n).offset (wordAt b n)

/-- `WR PADVAL, <16 bytes>`: PADVAL0 first. -/
def asmWrPadval (b : Block) : List HostStep :=
  (List.finRange 4).map fun n => .writeReg (Reg.padval n).offset (wordAt b n)

/-- `WRM <addr>, <bytes>`: consecutive bytes from addr. -/
def asmWrm : Nat → Bytes → List HostStep
  | _, [] => []
  | a, b :: bs => .writeDmem a b :: asmWrm (a + 1) bs

/-- `<MNEMONIC> [flag ...]`: the command word written to CMD. -/
def asmCommand (i : Instr) : List HostStep := [.writeReg Reg.cmd.offset (encodeWord i)]

/-- `RD <REG>`. -/
def asmRd (r : Reg) : List HostStep := [.readReg r.offset]

/-- `RDM <addr>, <n>`. -/
def asmRdm (a n : Nat) : List HostStep := (List.range n).map fun j => .readDmem (a + j)

/-- `RDA <addr>, <n>`. -/
def asmRda (a n : Nat) : List HostStep := (List.range n).map fun j => .readArena (a + j)

/-- `SETBUF a, n`. -/
def asmSetBuf (a n : Word) : List HostStep := asmWr .addr a ++ asmWr .len n

/-- `SETCRED a, n`. -/
def asmSetCred (a n : Word) : List HostStep := asmWr .credBase a ++ asmWr .credCount n

/-- `XTS_BLK_ENC [k2]`. -/
def asmXtsBlkEnc (k : KeySlot) : List HostStep := asmWr .len 16 ++ asmCommand (.xtsEnc k)

/-- `XTS_BLK_DEC [k2]`. -/
def asmXtsBlkDec (k : KeySlot) : List HostStep := asmWr .len 16 ++ asmCommand (.xtsDec k)

/-- `TWK_TO k`. -/
def asmTwkTo (k : Word) : List HostStep := asmWr .blkidx k ++ asmCommand .twkAdv

/-- The padder a list of flag words names (`def`, `xor`; none is the default padder). -/
def padderOfFlags : List String → Option Padder
  | [] => some .default
  | ["def"] => some .default
  | ["xor"] => some .xor
  | _ => none

/-- The key slot a list of flag words names (`k1`, `k2`; none is slot 1). -/
def slotOfFlags : List String → Option KeySlot
  | [] => some .key1
  | ["k1"] => some .key1
  | ["k2"] => some .key2
  | _ => none

/-- The salt kind and mode a list of flag words names (`salt2`, `salt16`; `mic`, `sig`; none of a pair
is its first). -/
def v1OfFlags : List String → Option (SaltKind × VerifyMode)
  | [] => some (.short, .mic)
  | ["salt2"] => some (.short, .mic)
  | ["salt16"] => some (.extended, .mic)
  | ["mic"] => some (.short, .mic)
  | ["sig"] => some (.short, .signature)
  | ["salt2", "mic"] | ["mic", "salt2"] => some (.short, .mic)
  | ["salt2", "sig"] | ["sig", "salt2"] => some (.short, .signature)
  | ["salt16", "mic"] | ["mic", "salt16"] => some (.extended, .mic)
  | ["salt16", "sig"] | ["sig", "salt16"] => some (.extended, .signature)
  | _ => none

/-- No flag word. -/
def noFlags (i : Instr) : List String → Option Instr
  | [] => some i
  | _ => none

/-- The command a mnemonic and its flag words name (`30_encoding.md` R98). -/
def parseCommand (mnemonic : String) (flags : List String) : Option Instr :=
  match mnemonic with
  | "KEY_LOAD" => noFlags .keyLoad flags
  | "TWK_STEP" => noFlags .twkStep flags
  | "TWK_ADV" => noFlags .twkAdv flags
  | "MIX" => noFlags .mix flags
  | "PAD" => (padderOfFlags flags).map .pad
  | "XTS_ENC" => (slotOfFlags flags).map .xtsEnc
  | "XTS_DEC" => (slotOfFlags flags).map .xtsDec
  | "LDT_ENC" => (padderOfFlags flags).map .ldtEnc
  | "LDT_DEC" => (padderOfFlags flags).map .ldtDec
  | "RESOLVE_V0" => (padderOfFlags flags).map .resolveV0
  | "RESOLVE_V1" => (v1OfFlags flags).map fun f => .resolveV1 f.1 f.2
  | "ARENA_RESET" => noFlags .arenaReset flags
  | _ => none

end Sys2Proof.Machine
end

