-- ==== Sys2Proof/Safety.lean ====
section
/-! DEFINITION. What a good state is, in the terms the statements use. -/

namespace Sys2Proof.Machine

/-- "A model should treat PANIC = 1 as a fault state that is never a good final state"
(`60_exceptions.md` R285). -/
def State.good (s : State) : Bool := !s.panic

/-- The host access that kills the engine: a PAD command with LEN > 15 (`70_reset_and_hazards.md` R332). -/
def HostStep.longPad (h : HostStep) (s : State) : Bool :=
  match h with
  | .writeReg off w =>
    off == 0x000 && decide (15 < s.len.toNat) &&
      (decodeWord w == .ok (.pad .default) || decodeWord w == .ok (.pad .xor))
  | _ => false

/-- What the flags say together: MATCH only beside DONE and OK, and PANIC exactly beside the panic code
(`10_state.md` R24, R28; `60_exceptions.md` R285, R292, R293). -/
structure State.FlagsAgree (s : State) : Prop where
  panicCode : s.panic = true ↔ s.err = .panic
  panicClears : s.panic = true → s.done = false ∧ s.matched = false
  idleIsClear : s.done = false → s.panic = false → s.err = .ok
  matchIsSuccess : s.matched = true → s.done = true ∧ s.err = .ok
  successInfo : s.err = .ok → s.errinfo = 0

/-- The memories are canonical and hold only addresses that exist (`10_state.md` R33, R34). -/
structure State.MemoriesFit (E : Engine) (s : State) : Prop where
  dmemWf : Memory.wf s.dmem = true
  arenaWf : Memory.wf s.arena = true
  dmemBelow : ∀ c ∈ s.dmem, c.1 < E.dmemBytes
  arenaBelow : ∀ c ∈ s.arena, c.1 < E.arenaBytes

/-- The arena's bookkeeping (`10_state.md` R30, `46_arena.md` R270, R271): every byte handed out has
been written, and the last allocation lies inside the arena. -/
structure State.ArenaKept (E : Engine) (s : State) : Prop where
  pointer : s.arenaPtr.toNat ≤ E.arenaBytes
  written : ∀ a, a < s.arenaPtr.toNat → (Memory.get s.arena a).isSome = true
  result : s.resAddr.toNat + s.resLen.toNat ≤ E.arenaBytes

/-- Each part of a loaded key has `AES_KEY_BYTES` bytes (`10_state.md` R32, `41_xts.md` R140). -/
def LdtKey.Sized (E : Engine) (k : LdtKey) : Prop :=
  k.key1.primary.length = E.aesKeySize.keyBytes ∧ k.key1.tweak.length = E.aesKeySize.keyBytes ∧
    k.key2.primary.length = E.aesKeySize.keyBytes ∧ k.key2.tweak.length = E.aesKeySize.keyBytes

/-- What holds of every state a run reaches. -/
structure State.Inv (E : Engine) (s : State) : Prop where
  flags : s.FlagsAgree
  memories : s.MemoriesFit E
  arenaKept : s.ArenaKept E
  keysSized : ∀ k, s.keys = some k → k.Sized E
  /-- "SIRC_SALT_LEN only ever holds 0, 2 or 16" (`10_state.md` R39). -/
  saltLen : s.sircSaltLen = 0 ∨ s.sircSaltLen = 2 ∨ s.sircSaltLen = 16
  /-- CRED_IDX is an index below a legal CRED_COUNT, or that count (`10_state.md` R29). -/
  credIdxLegal : s.credIdx.toNat ≤ E.ncredMax

/-! ### What a RESOLVE command meets -/

/-- The tests both RESOLVE commands make after the length test are all passed: the frame and the
credential table lie in DMEM and the count is legal (`45_resolve.md` R242, R243). -/
def State.tablesFit (E : Engine) (s : State) : Prop :=
  s.addr.toNat + s.len.toNat ≤ E.dmemBytes ∧ s.credCount.toNat ≤ E.ncredMax ∧
    (s.credCount = 0 ∨ s.credBase.toNat + s.credCount.toNat * E.credStride ≤ E.dmemBytes)

/-- Credential entry j as a RESOLVE command reads it: the frame is its first memory read, entry j the
one numbered j + 1 after it (`45_resolve.md` R235, R236, R238). -/
def State.entryRead (E : Engine) (s : State) (j : Nat) : CredEntry :=
  credEntryOf E (Memory.readBytes s.dmem (s.draws + 1 + j) (s.credBase.toNat + j * E.credStride)
    E.credStride)

/-- The attempt of RESOLVE_V0 on entry j (`45_resolve.md` R246). -/
def State.tryV0 (E : Engine) (s : State) (p : Padder) (j : Nat) : Option Bytes :=
  attemptV0 E p s.padval (v0Fields s.buffer) (s.entryRead E j)

/-- The section RESOLVE_V1 parses (`44_codec_frames.md` R213). -/
def State.section1 (E : Engine) (s : State) (salt : SaltKind) (mode : VerifyMode) : V1Frame :=
  v1Fields s.buffer (saltBytes salt) (trailerBytes E mode)

/-- The attempt of RESOLVE_V1 on entry j (`45_resolve.md` R246). -/
def State.tryV1 (E : Engine) (s : State) (salt : SaltKind) (mode : VerifyMode) (j : Nat) : Option Bytes :=
  attemptV1 E mode s.advHdr (saltBytes salt) (s.section1 E salt mode) (s.entryRead E j)

end Sys2Proof.Machine
end

