-- ==== Sys2Proof/Certificates/Slice0/Obligations.lean ====
section
/-! DEFINITION. The statements for the provers. Each docstring names the rules of the spec it
formalises. Statements about `exec`, `step` and `core` are about the engine `Config.engine`, whose open
parameters and whole provider are opaque constants. The fields `draws`, `host` and `readData` of the
state are the model's own (log entries 4 and 5): where a statement gives one of them a value, that
clause is the model's form of an access and formalises no rule. -/

open Sys2Proof Sys2Proof.Machine

/-! ### Encoding -/

/-- `30_encoding.md` R94: the 21 words, each with its command, and no others. -/
def Obligations.LegalWordsAreTheTwentyOne : Prop :=
  ∀ (w : Word) (i : Instr), decodeWord w = .ok i ↔ (w, i) ∈
    [(0x00000001#32, Instr.keyLoad), (0x00000002#32, .twkStep), (0x00000003#32, .twkAdv),
     (0x00000004#32, .mix), (0x00000005#32, .pad .default), (0x00000205#32, .pad .xor),
     (0x00000008#32, .xtsEnc .key1), (0x00000108#32, .xtsEnc .key2), (0x00000009#32, .xtsDec .key1),
     (0x00000109#32, .xtsDec .key2), (0x0000000A#32, .ldtEnc .default), (0x0000020A#32, .ldtEnc .xor),
     (0x0000000B#32, .ldtDec .default), (0x0000020B#32, .ldtDec .xor),
     (0x00000010#32, .resolveV0 .default), (0x00000210#32, .resolveV0 .xor),
     (0x00000011#32, .resolveV1 .short .mic), (0x00000411#32, .resolveV1 .extended .mic),
     (0x00000811#32, .resolveV1 .short .signature), (0x00000C11#32, .resolveV1 .extended .signature),
     (0x00000018#32, .arenaReset)]

/-- `30_encoding.md` section 5: decoding an encoded command gives it back and leaves the bytes after
it, and a word decodes to a command only if it is that command's encoding. -/
def Obligations.DecodeAndEncodeAgree : Prop :=
  ∀ (i : Instr) (w : Word) (rest : Bytes), i.wellFormed = true →
    decode (encode i ++ rest) = .ok (i, rest) ∧ (decodeWord w = .ok i ↔ w = encodeWord i)

/-- `30_encoding.md` section 4: a word is a command exactly when no bit of [31:12] is 1, its OP is
assigned and no flag bit its row does not list is 1. -/
def Obligations.LegalWordsPassTheThreeChecks : Prop :=
  ∀ w : Word, (∃ i, decodeWord w = .ok i) ↔
    w.extractLsb' 12 20 = 0 ∧
    (w.extractLsb' 0 8) ∈ [0x01#8, 0x02, 0x03, 0x04, 0x05, 0x08, 0x09, 0x0A, 0x0B, 0x10, 0x11, 0x18] ∧
    (w.getLsbD 8 = true → (w.extractLsb' 0 8) ∈ [0x08#8, 0x09]) ∧
    (w.getLsbD 9 = true → (w.extractLsb' 0 8) ∈ [0x05#8, 0x0A, 0x0B, 0x10]) ∧
    (w.getLsbD 10 = true → w.extractLsb' 0 8 = 0x11) ∧
    (w.getLsbD 11 = true → w.extractLsb' 0 8 = 0x11)

/-- `30_encoding.md` section 3: some words written out from the format, one of each family. -/
def Obligations.WrittenOutWordsDecode : Prop :=
  decodeWord 0b00000000000000000000_0000_00000001 = .ok .keyLoad ∧
  decodeWord 0b00000000000000000000_0000_00000010 = .ok .twkStep ∧
  decodeWord 0b00000000000000000000_0000_00000011 = .ok .twkAdv ∧
  decodeWord 0b00000000000000000000_0000_00000100 = .ok .mix ∧
  decodeWord 0b00000000000000000000_0010_00000101 = .ok (.pad .xor) ∧
  decodeWord 0b00000000000000000000_0001_00001001 = .ok (.xtsDec .key2) ∧
  decodeWord 0b00000000000000000000_0000_00001010 = .ok (.ldtEnc .default) ∧
  decodeWord 0b00000000000000000000_0010_00010000 = .ok (.resolveV0 .xor) ∧
  decodeWord 0b00000000000000000000_1000_00010001 = .ok (.resolveV1 .short .signature) ∧
  decodeWord 0b00000000000000000000_0000_00011000 = .ok .arenaReset

/-! ### The host's steps -/

/-- `10_state.md` R23. -/
def Obligations.WriteOfCmdRunsTheCommand : Prop :=
  ∀ (s : State) (w : Word) (rest : List HostStep),
    (s.host = .writeReg 0x000 w :: rest → s.panic = false →
      (∀ i, decodeWord w = .ok i → step s = exec i { s with host := rest }) ∧
      (∀ e, decodeWord w = .error e →
        step s = .next (State.raise { s with host := rest } .illegalCommand w))) ∧
    (s.host = .writeReg 0x000 w :: rest → s.panic = true → step s = .next { s with host := rest }) ∧
    (s.host = .readReg 0x000 :: rest → step s = .next { s with host := rest, readData := .word 0 })

/-- `60_exceptions.md` R286. -/
def Obligations.IllegalWordRaisesIllegalCommand : Prop :=
  ∀ (s : State) (w : Word) (rest : List HostStep),
    s.host = .writeReg 0x000 w :: rest → s.panic = false → w ∉ legalWords →
    step s = .next { s with host := rest, done := true, matched := false, err := .illegalCommand,
                            errinfo := w }

/-- `10_state.md` R21: RW registers are written and read back and nothing else changes, RO registers
ignore writes, WO registers read 0, reserved offsets read 0 and ignore writes. The last clause is the
model's choice (log entry 7): an access that is misaligned, which `20_memory.md` R65 puts outside the
model, or at 0x100 and above, of which no rule speaks, answers no next state. -/
def Obligations.RegisterAccessRights : Prop :=
  ∀ (s : State) (v : Word) (rest : List HostStep),
    (∀ r : Reg, r.access = .readWrite → s.panic = false → s.host = .writeReg r.offset v :: rest →
      ∃ t, step s = .next t ∧ t.readReg r = (if r = .advHdr then v &&& 0xFF else v) ∧
        (∀ r', r' ≠ r → t.readReg r' = s.readReg r') ∧ t.keys = s.keys ∧ t.dmem = s.dmem ∧
        t.arena = s.arena ∧ t.host = rest ∧ t.draws = s.draws ∧ t.readData = s.readData) ∧
    (∀ r : Reg, r.access = .readOnly → s.host = .writeReg r.offset v :: rest →
      step s = .next { s with host := rest }) ∧
    (∀ r : Reg, s.host = .readReg r.offset :: rest →
      step s = .next { s with host := rest,
                              readData := .word (if r.access = .writeOnly then 0 else s.readReg r) }) ∧
    (∀ off, off < 0x100 → off % 4 = 0 → (∀ r : Reg, r.offset ≠ off) →
      (s.host = .writeReg off v :: rest → step s = .next { s with host := rest }) ∧
      (s.host = .readReg off :: rest → step s = .next { s with host := rest, readData := .word 0 })) ∧
    (∀ off, 0x100 ≤ off ∨ off % 4 ≠ 0 →
      s.host = .writeReg off v :: rest ∨ s.host = .readReg off :: rest → ∀ t, step s ≠ .next t)

/-- `10_state.md` section 2: the places of the STATUS fields, BUSY and the reserved bits reading 0;
`60_exceptions.md` section 1: the thirteen numbers the ERR field reads. -/
def Obligations.StatusShowsTheFlags : Prop :=
  ∀ s : State,
    (s.readReg .status).getLsbD 0 = false ∧ (s.readReg .status).getLsbD 1 = s.done ∧
    (s.readReg .status).getLsbD 2 = s.matched ∧ (s.readReg .status).getLsbD 3 = s.panic ∧
    (s.readReg .status).getLsbD 4 = s.keys.isSome ∧ (s.readReg .status).extractLsb' 5 3 = 0 ∧
    (s.readReg .status).extractLsb' 16 16 = 0 ∧
    (s.readReg .status).extractLsb' 8 8 =
      match s.err with
      | .ok => 0x00 | .dataTooShort => 0x01 | .dataTooLong => 0x02 | .invalidLength => 0x03
      | .invalidStructure => 0x04 | .noMatchingCredentials => 0x05 | .arenaOutOfSpace => 0x06
      | .illegalCommand => 0x07 | .addrRange => 0x08 | .keyNotLoaded => 0x09
      | .badKeyLength => 0x0A | .credCountRange => 0x0B | .panic => 0xFF

/-- `10_state.md` section 2, the map: at each offset a host read gives the register the map has there
(what STATUS and the words of the byte-string registers show is said in StatusShowsTheFlags and
WrTweakAndPadvalWriteSixteenBytes). -/
def Obligations.EveryRegisterReadsAtItsOffset : Prop :=
  ∀ (s : State) (rest : List HostStep) (off : Nat) (v : Word), s.host = .readReg off :: rest →
    (off, v) ∈
      [(0x000, 0), (0x004, s.readReg .status), (0x008, s.errinfo), (0x00C, s.addr), (0x010, s.len),
       (0x014, s.blkidx), (0x018, s.credBase), (0x01C, s.credCount), (0x020, s.credIdx),
       (0x024, s.arenaPtr), (0x028, s.resAddr), (0x02C, s.resLen), (0x030, s.advHdr.setWidth 32),
       (0x040, s.readReg (.tweak 0)), (0x044, s.readReg (.tweak 1)), (0x048, s.readReg (.tweak 2)),
       (0x04C, s.readReg (.tweak 3)), (0x050, s.readReg (.padval 0)), (0x054, s.readReg (.padval 1)),
       (0x058, s.readReg (.padval 2)), (0x05C, s.readReg (.padval 3)),
       (0x060, s.readReg (.sircSalt 0)), (0x064, s.readReg (.sircSalt 1)),
       (0x068, s.readReg (.sircSalt 2)), (0x06C, s.readReg (.sircSalt 3)), (0x070, s.sircSaltLen),
       (0x074, s.readReg (.sircNonce 0)), (0x078, s.readReg (.sircNonce 1)),
       (0x07C, s.readReg (.sircNonce 2)), (0x080, s.readReg (.sircToken 0)),
       (0x084, s.readReg (.sircToken 1)), (0x088, s.readReg (.sircToken 2)),
       (0x08C, s.readReg (.sircToken 3))] →
    step s = .next { s with host := rest, readData := .word v }

/-- `20_memory.md` section 7: a byte the host writes is the byte it then reads, and no other byte of
DMEM, nothing of the arena and no register changes. -/
def Obligations.HostReadsBackTheByteItWrote : Prop :=
  ∀ (s : State) (a : Nat) (v : Byte) (rest : List HostStep),
    s.host = .writeDmem a v :: .readDmem a :: rest → s.panic = false → a < Config.engine.dmemBytes →
    ∃ t u, step s = .next t ∧ step t = .next u ∧ u.readData = .byte v ∧
      (∀ b, b ≠ a → Memory.get u.dmem b = Memory.get s.dmem b) ∧
      u = { s with dmem := u.dmem, draws := s.draws + 1, host := rest, readData := .byte v }

/-- `10_state.md` sections 8 and 10, `20_memory.md` section 7: a host read gives the byte a DMEM address
below DMEM_BYTES, or an arena address below ARENA_PTR, holds, in every state, and changes nothing the
spec names. Of a DMEM byte nothing has written, and of every arena byte at or above ARENA_PTR, it gives
a free draw, numbered by the read: the model's form of the unspecified value (log entry 4). -/
def Obligations.HostReadsGiveTheByteOrAFreeDraw : Prop :=
  ∀ (s : State) (a : Nat) (rest : List HostStep),
    let found (v : Byte) : State :=
      { s with host := rest, draws := s.draws + 1, readData := .byte v }
    (s.host = .readDmem a :: rest → a < Config.engine.dmemBytes →
      (∀ v, Memory.get s.dmem a = some v → step s = .next (found v)) ∧
      (Memory.get s.dmem a = none → step s = .next (found (Config.freeByte s.draws a)))) ∧
    (s.host = .readArena a :: rest → a < Config.engine.arenaBytes →
      (∀ v, a < s.arenaPtr.toNat → Memory.get s.arena a = some v → step s = .next (found v)) ∧
      (s.arenaPtr.toNat ≤ a → step s = .next (found (Config.freeByte s.draws a))))

/-- `60_exceptions.md` section 5: an engine the host leaves alone keeps all its state. -/
def Obligations.IdleEngineKeepsItsState : Prop :=
  ∀ (s : State) (k : Nat), s.host = [] → core.run k s = .next s

/-- `70_reset_and_hazards.md` R321 with R320: what reset leaves, that the host may take it in any
state, that the engine then waits for the host, and that nothing else leaves the panic state or clears KEYS_VALID. -/
def Obligations.ResetIsTheOnlyWayOut : Prop :=
  (∀ (s : State) (rest : List HostStep), s.host = .reset :: rest →
    ∃ t, step s = .next t ∧ (∀ r, t.readReg r = 0) ∧ t.keys = none ∧
      (∀ a, Memory.get t.dmem a = none) ∧ (∀ a, Memory.get t.arena a = none) ∧ t.host = rest ∧
      (rest = [] → step t = .next t) ∧
      t = { State.reset with draws := s.draws, host := rest, readData := s.readData }) ∧
  (∀ s t : State, step s = .next t → s.panic = true → t.panic = false →
    ∃ rest, s.host = .reset :: rest) ∧
  (∀ s t : State, step s = .next t → s.keysValid = true → t.keysValid = false →
    ∃ rest, s.host = .reset :: rest)

/-- `30_encoding.md` R98, `20_memory.md` R61: the four register writes that `WR TWEAK` and `WR PADVAL`
stand for write the 16 bytes, byte k of word n being byte 4n + k of the string; a read of a word of a
byte-string register shows the same bytes, and TWEAK's four words are `le128` of its bytes. -/
def Obligations.WrTweakAndPadvalWriteSixteenBytes : Prop :=
  ∀ (s : State) (b : Block) (rest : List HostStep), s.panic = false →
    (s.host = asmWrTweak b ++ rest → core.run 4 s = .next { s with tweak := b, host := rest }) ∧
    (s.host = asmWrPadval b ++ rest → core.run 4 s = .next { s with padval := b, host := rest }) ∧
    (∀ n k : Nat, n < 4 → k < 4 → (wordAt b n).extractLsb' (8 * k) 8 = byteAt b (4 * n + k)) ∧
    (∀ (n : Fin 4) (k : Nat), k < 4 →
      (s.readReg (.tweak n)).extractLsb' (8 * k) 8 = byteAt s.tweak (4 * n + k) ∧
      (s.readReg (.padval n)).extractLsb' (8 * k) 8 = byteAt s.padval (4 * n + k) ∧
      (s.readReg (.sircSalt n)).extractLsb' (8 * k) 8 = byteAt s.sircSalt (4 * n + k) ∧
      (s.readReg (.sircToken n)).extractLsb' (8 * k) 8 = byteAt s.sircToken (4 * n + k)) ∧
    (∀ (n : Fin 3) (k : Nat), k < 4 →
      (s.readReg (.sircNonce n)).extractLsb' (8 * k) 8 = byteAt s.sircNonce (4 * n + k)) ∧
    s.tweak.toNat = (s.readReg (.tweak 0)).toNat + 2 ^ 32 * (s.readReg (.tweak 1)).toNat +
      2 ^ 64 * (s.readReg (.tweak 2)).toNat + 2 ^ 96 * (s.readReg (.tweak 3)).toNat

/-- `30_encoding.md` R99: the pseudo-command `TWK_TO k` writes BLKIDX and advances the tweak by k. -/
def Obligations.TwkToAdvancesTheTweak : Prop :=
  ∀ (s : State) (k : Word) (rest : List HostStep), s.panic = false → s.host = asmTwkTo k ++ rest →
    ∃ t, core.run 2 s = .next t ∧ t.blkidx = k ∧ t.host = rest ∧ t.err = .ok ∧ t.done = true ∧
      t.tweak = (double Config.engine.gfReduce)^[k.toNat] s.tweak

/-! ### How commands end -/

/-- `60_exceptions.md` sections 2 and 3: the error entry, the success entry and the panic entry, field
by field. -/
def Obligations.TheThreeEndingsWriteTheFlags : Prop :=
  ∀ (s : State) (c : ErrCode) (w : Word),
    s.raise c w = { s with done := true, matched := false, err := c, errinfo := w } ∧
    s.succeed = { s with done := true, matched := false, err := .ok, errinfo := 0 } ∧
    s.succeedMatch = { s with done := true, matched := true, err := .ok, errinfo := 0 } ∧
    s.enterPanic = { s with panic := true, done := false, matched := false, err := .panic, errinfo := 0 }

/-- `60_exceptions.md` R285: only a PAD command with LEN > 15 enters the panic state. -/
def Obligations.OnlyALongPadPanics : Prop :=
  (∀ (p : Padder) (s : State), 15 < s.len.toNat →
    exec (.pad p) s = .next { s with panic := true, done := false, matched := false, err := .panic,
                                     errinfo := 0 }) ∧
  (∀ (i : Instr) (s t : State), exec i s = .next t → s.panic = false → t.panic = true →
    ∃ p, i = .pad p ∧ 15 < s.len.toNat) ∧
  (∀ s t : State, step s = .next t → s.panic = false → t.panic = true →
    ∃ h rest, s.host = h :: rest ∧ h.longPad s = true)

/-- `60_exceptions.md` section 2, `20_memory.md` section 7: in the panic state every write the model
offers the host is ignored, and reads work. -/
def Obligations.PanicIgnoresEveryWrite : Prop :=
  ∀ (s : State) (rest : List HostStep), s.panic = true →
    (∀ off v, s.host = .writeReg off v :: rest → off < 0x100 → off % 4 = 0 →
      step s = .next { s with host := rest }) ∧
    (∀ a v, s.host = .writeDmem a v :: rest → a < Config.engine.dmemBytes →
      step s = .next { s with host := rest }) ∧
    (∀ off, s.host = .readReg off :: rest → off < 0x100 → off % 4 = 0 →
      ∃ v, step s = .next { s with host := rest, readData := .word v }) ∧
    (∀ a, s.host = .readDmem a :: rest → a < Config.engine.dmemBytes →
      ∃ v, step s = .next { s with host := rest, draws := s.draws + 1, readData := .byte v }) ∧
    (∀ a, s.host = .readArena a :: rest → a < Config.engine.arenaBytes →
      ∃ v, step s = .next { s with host := rest, draws := s.draws + 1, readData := .byte v })

/-- `10_state.md` section 5: what a command leaves in the flags, and that no command reads DONE,
MATCH, ERR or ERRINFO. -/
def Obligations.FlagsDescribeTheLastCommandOnly : Prop :=
  (∀ (i : Instr) (s t : State), exec i s = .next t → t.err ≠ .panic →
    t.done = true ∧ (t.matched = true → t.err = .ok ∧
      ((∃ p, i = .resolveV0 p) ∨ ∃ l m, i = .resolveV1 l m)) ∧ t.panic = s.panic) ∧
  (∀ (i : Instr) (s : State) (d m : Bool) (e : ErrCode) (w : Word),
    exec i { s with done := d, matched := m, err := e, errinfo := w } = exec i s)

/-- `60_exceptions.md` R296: a command that ends with an error other than the two loop endings has
changed only STATUS and ERRINFO; the loop endings also wrote CRED_IDX and the SIRC registers, and
nothing else. -/
def Obligations.ErrorsHaveNoPartialEffects : Prop :=
  ∀ (i : Instr) (s t : State), exec i s = .next t → t.err ≠ .ok → t.err ≠ .panic →
    (t.err ≠ .noMatchingCredentials → t.err ≠ .arenaOutOfSpace →
      t = { s with done := true, matched := false, err := t.err, errinfo := t.errinfo }) ∧
    (t.err = .noMatchingCredentials ∨ t.err = .arenaOutOfSpace →
      (t.sircSaltLen = 2 ∨ t.sircSaltLen = 16) ∧
      (t.err = .noMatchingCredentials → t.credIdx = s.credCount) ∧
      (t.err = .arenaOutOfSpace → t.credIdx.toNat < Config.engine.ncredMax) ∧
      t = { s with done := true, matched := false, err := t.err, errinfo := t.errinfo,
                   credIdx := t.credIdx, sircSalt := t.sircSalt, sircSaltLen := t.sircSaltLen,
                   sircNonce := t.sircNonce, sircToken := t.sircToken, draws := t.draws })

/-! ### Whole-machine rules -/

/-- `10_state.md` section 2 (the column "written by engine in"), sections 7 and 8, `20_memory.md`
section 1: the only commands that write each piece of state. -/
def Obligations.EachCommandWritesOnlyItsOwnState : Prop :=
  ∀ (i : Instr) (s t : State), exec i s = .next t →
    (t.addr = s.addr ∧ t.len = s.len ∧ t.blkidx = s.blkidx ∧ t.credBase = s.credBase ∧
      t.credCount = s.credCount ∧ t.advHdr = s.advHdr ∧ t.padval = s.padval ∧ t.host = s.host ∧
      t.readData = s.readData) ∧
    (i ≠ .twkStep → i ≠ .twkAdv → i ≠ .mix → (∀ p, i ≠ .pad p) → t.tweak = s.tweak) ∧
    (i ≠ .keyLoad → t.keys = s.keys) ∧
    ((∀ k, i ≠ .xtsEnc k) → (∀ k, i ≠ .xtsDec k) → (∀ p, i ≠ .ldtEnc p) → (∀ p, i ≠ .ldtDec p) →
      ∀ a, Memory.get t.dmem a = Memory.get s.dmem a) ∧
    ((∀ p, i ≠ .resolveV0 p) → (∀ l m, i ≠ .resolveV1 l m) →
      (∀ a, Memory.get t.arena a = Memory.get s.arena a) ∧ t.credIdx = s.credIdx ∧
      t.resAddr = s.resAddr ∧ t.resLen = s.resLen ∧ t.sircSalt = s.sircSalt ∧
      t.sircSaltLen = s.sircSaltLen ∧ t.sircNonce = s.sircNonce ∧ t.sircToken = s.sircToken ∧
      (i ≠ .arenaReset → t.arenaPtr = s.arenaPtr))

/-- What holds of every reachable state is kept by every step, from every state that has it
(`10_state.md`, `20_memory.md`, `46_arena.md`, `60_exceptions.md`; the clauses of `State.Inv`). -/
def Obligations.EveryStepKeepsTheInvariant : Prop :=
  ∀ s t : State, s.Inv Config.engine → step s = .next t → t.Inv Config.engine

/-- The state after reset has the invariant. -/
def Obligations.ResetHasTheInvariant : Prop := State.reset.Inv Config.engine

/-- `10_state.md` section 7: "the host cannot read a key back". Two engines that differ in nothing but
the keys they hold give the host the same value at every read, and differ in nothing else after it. -/
def Obligations.KeysCannotBeReadBack : Prop :=
  ∀ (s : State) (k k' : LdtKey) (h : HostStep) (rest : List HostStep),
    s.host = h :: rest → (∀ off v, h = .writeReg off v → off ≠ 0x000) →
    ∀ t, step { s with keys := some k } = .next t →
      ∃ t', step { s with keys := some k' } = .next t' ∧ t'.readData = t.readData ∧
        (h ≠ .reset → t.keys = some k ∧ t' = { t with keys := some k' }) ∧ (h = .reset → t' = t)

/-- `41_xts.md` section 4, `10_state.md` section 9: the RESOLVE commands neither read nor write the key
slots and TWEAK. -/
def Obligations.ResolveIgnoresKeysAndTweak : Prop :=
  ∀ (s : State) (k : Option LdtKey) (x : Block) (i : Instr),
    ((∃ p, i = .resolveV0 p) ∨ ∃ l m, i = .resolveV1 l m) →
    ∃ t, exec i s = .next t ∧
      exec i { s with keys := k, tweak := x } = .next { t with keys := k, tweak := x }

/-- `41_xts.md` section 4: what XTS_ENC and XTS_DEC leave in the buffer depends on ADDR, LEN, TWEAK,
the slots and the buffer alone. -/
def Obligations.XtsDependsOnItsOperandsOnly : Prop :=
  ∀ (k : KeySlot) (s s' t : State) (i : Instr), i = .xtsEnc k ∨ i = .xtsDec k →
    s.addr = s'.addr → s.len = s'.len → s.tweak = s'.tweak → s.keys = s'.keys →
    (∀ j, j < s.len.toNat → ∃ v, Memory.get s.dmem (s.addr.toNat + j) = some v ∧
      Memory.get s'.dmem (s.addr.toNat + j) = some v) →
    exec i s = .next t →
    ∃ t', exec i s' = .next t' ∧ t'.err = t.err ∧ t'.errinfo = t.errinfo ∧
      ∀ j, j < s.len.toNat →
        Memory.get t'.dmem (s.addr.toNat + j) = Memory.get t.dmem (s.addr.toNat + j)

/-! ### Tweak arithmetic -/

/-- `40_tweak.md` R124 with R120: TWEAK as a little-endian number is doubled modulo 2^128, with
the constant folded into its low byte when the top bit is lost; nothing else but the flags changes. -/
def Obligations.TwkStepDoublesTheTweak : Prop :=
  decodeWord 0x00000002 = .ok .twkStep ∧ ∀ s : State, ∃ t, exec .twkStep s = .next t ∧
    t = { s with tweak := t.tweak, done := true, matched := false, err := .ok, errinfo := 0 } ∧
    t.tweak.toNat = (2 * s.tweak.toNat % 2 ^ 128) ^^^
      (if 2 ^ 127 ≤ s.tweak.toNat then Config.engine.gfReduce.toNat else 0)

/-- `40_tweak.md` R121: the doubling byte by byte. -/
def Obligations.DoublingByteByByte : Prop :=
  ∀ (g : Byte) (T : Block) (i : Nat), i < 16 →
    let c := (byteAt T 15).getLsbD 7
    let carryIn : Byte := if 0 < i ∧ (byteAt T (i - 1)).getLsbD 7 = true then 1 else 0
    byteAt (double g T) i =
      ((byteAt T i <<< 1) ||| carryIn) ^^^ (if i = 0 ∧ c = true then g else 0)

/-- `40_tweak.md` R123: the laws of doubling and advancing. -/
def Obligations.AdvanceLaws : Prop :=
  ∀ g : Byte,
    (∀ (T : Block) (a b : Nat), advance g T (a + b) = advance g (advance g T a) b) ∧
    (∀ A B : Block, double g (A ^^^ B) = double g A ^^^ double g B) ∧
    (∀ k, advance g 0 k = 0) ∧
    (g.getLsbD 0 = true → Function.Bijective (double g))

/-- `40_tweak.md` R125 with R122: the tweak is doubled BLKIDX times, which is what BLKIDX TWK_STEP
commands leave in TWEAK; nothing else but the flags changes. -/
def Obligations.TwkAdvEqualsRepeatedTwkStep : Prop :=
  decodeWord 0x00000003 = .ok .twkAdv ∧ ∀ s : State, ∃ t u, exec .twkAdv s = .next t ∧
    t = { s with tweak := t.tweak, done := true, matched := false, err := .ok, errinfo := 0 } ∧
    u = (fun v => match exec .twkStep v with | .next w => w | _ => v)^[s.blkidx.toNat] s ∧
    t.tweak = u.tweak ∧ t.tweak = (double Config.engine.gfReduce)^[s.blkidx.toNat] s.tweak

/-! ### Padding -/

/-- `42_padding.md` R174 with R170, R171: PAD on a tail that is too long panics; on a tail in range writes the tail, the appended
bit and zeros into TWEAK, each byte XORed with PADVAL's under the XOR padder, and nothing else but the
flags changes; out of range it raises `AddrRange`. -/
def Obligations.PadWritesThePaddedTail : Prop :=
  decodeWord 0x00000005 = .ok (.pad .default) ∧ decodeWord 0x00000205 = .ok (.pad .xor) ∧
  ∀ (p : Padder) (s : State),
    (15 < s.len.toNat → exec (.pad p) s = .next s.enterPanic) ∧
    (s.len.toNat ≤ 15 → Config.engine.dmemBytes < s.addr.toNat + s.len.toNat →
      exec (.pad p) s = .next (s.raise .addrRange
        (BitVec.ofNat 32 (max s.addr.toNat Config.engine.dmemBytes)))) ∧
    (s.len.toNat ≤ 15 → s.addr.toNat + s.len.toNat ≤ Config.engine.dmemBytes →
      ∃ t, exec (.pad p) s = .next t ∧
        t = { s with tweak := t.tweak, draws := s.draws + 1, done := true, matched := false,
                     err := .ok, errinfo := 0 } ∧
        ∀ i, i < 16 → byteAt t.tweak i =
          (if i < s.len.toNat then Memory.readByte s.dmem s.draws (s.addr.toNat + i)
           else if i = s.len.toNat then 0x80 else 0) ^^^
          (match p with | .default => 0 | .xor => byteAt s.padval i))

/-- `42_padding.md` R173 (b), (c), (d): the pad value applied twice is a no-op, the zero pad value is
the default padder, and both padders are injective on legal tails. -/
def Obligations.PaddersAreInjective : Prop :=
  (∀ (v : Block) (tail : Bytes), padXor v tail ^^^ v = padDefault tail) ∧
  (∀ tail : Bytes, padXor 0 tail = padDefault tail) ∧
  (∀ (p : Padder) (v : Block) (a b : Bytes), a.length ≤ 15 → b.length ≤ 15 →
    padTweak p v a = padTweak p v b → a = b)

/-! ### Keys and XTS -/

/-- `41_xts.md` R142 with R140, R141: the two tests of KEY_LOAD, and the four parts of the blob. -/
def Obligations.KeyLoadSplitsTheBlob : Prop :=
  decodeWord 0x00000001 = .ok .keyLoad ∧ ∀ s : State,
    let n := Config.engine.aesKeySize.keyBytes
    let part (i : Nat) : Bytes :=
      (List.range n).map fun j => Memory.readByte s.dmem s.draws (s.addr.toNat + i * n + j)
    (s.len.toNat ≠ 4 * n → exec .keyLoad s = .next (s.raise .badKeyLength s.len)) ∧
    (s.len.toNat = 4 * n → Config.engine.dmemBytes < s.addr.toNat + 4 * n →
      exec .keyLoad s = .next (s.raise .addrRange
        (BitVec.ofNat 32 (max s.addr.toNat Config.engine.dmemBytes)))) ∧
    (s.len.toNat = 4 * n → s.addr.toNat + 4 * n ≤ Config.engine.dmemBytes →
      exec .keyLoad s = .next { s with keys := some ⟨⟨part 0, part 1⟩, ⟨part 2, part 3⟩⟩,
                                       draws := s.draws + 1, done := true, matched := false,
                                       err := .ok, errinfo := 0 })

/-- `41_xts.md` R149: the tests of XTS_ENC in order, and the buffer replaced by its encryption under
the selected slot and TWEAK, every other byte and all other state unchanged. -/
def Obligations.XtsEncReplacesTheBuffer : Prop :=
  decodeWord 0x00000008 = .ok (.xtsEnc .key1) ∧ decodeWord 0x00000108 = .ok (.xtsEnc .key2) ∧
  ∀ (k : KeySlot) (s : State),
    let n := s.len.toNat
    let a := s.addr.toNat
    (s.keys = none → exec (.xtsEnc k) s = .next (s.raise .keyNotLoaded 0)) ∧
    ∀ ks, s.keys = some ks →
      (n < 16 → exec (.xtsEnc k) s = .next (s.raise .dataTooShort s.len)) ∧
      (2 ^ 24 < n → exec (.xtsEnc k) s = .next (s.raise .dataTooLong s.len)) ∧
      (16 ≤ n → n ≤ 2 ^ 24 → Config.engine.dmemBytes < a + n →
        exec (.xtsEnc k) s = .next (s.raise .addrRange
          (BitVec.ofNat 32 (max a Config.engine.dmemBytes)))) ∧
      (16 ≤ n → n ≤ 2 ^ 24 → a + n ≤ Config.engine.dmemBytes →
        ∃ t, exec (.xtsEnc k) s = .next t ∧
          t = { s with dmem := t.dmem, draws := s.draws + 1, done := true, matched := false,
                       err := .ok, errinfo := 0 } ∧
          (∀ b, ¬ (a ≤ b ∧ b < a + n) → Memory.get t.dmem b = Memory.get s.dmem b) ∧
          let u := xtsEncUnit Config.engine (match k with | .key1 => ks.key1 | .key2 => ks.key2)
            s.tweak ((List.range n).map fun j => Memory.readByte s.dmem s.draws (a + j))
          u.length = n ∧ ∀ j, j < n → Memory.get t.dmem (a + j) = u[j]?)

/-- `41_xts.md` R150: the same of XTS_DEC. -/
def Obligations.XtsDecReplacesTheBuffer : Prop :=
  decodeWord 0x00000009 = .ok (.xtsDec .key1) ∧ decodeWord 0x00000109 = .ok (.xtsDec .key2) ∧
  ∀ (k : KeySlot) (s : State),
    let n := s.len.toNat
    let a := s.addr.toNat
    (s.keys = none → exec (.xtsDec k) s = .next (s.raise .keyNotLoaded 0)) ∧
    ∀ ks, s.keys = some ks →
      (n < 16 → exec (.xtsDec k) s = .next (s.raise .dataTooShort s.len)) ∧
      (2 ^ 24 < n → exec (.xtsDec k) s = .next (s.raise .dataTooLong s.len)) ∧
      (16 ≤ n → n ≤ 2 ^ 24 → Config.engine.dmemBytes < a + n →
        exec (.xtsDec k) s = .next (s.raise .addrRange
          (BitVec.ofNat 32 (max a Config.engine.dmemBytes)))) ∧
      (16 ≤ n → n ≤ 2 ^ 24 → a + n ≤ Config.engine.dmemBytes →
        ∃ t, exec (.xtsDec k) s = .next t ∧
          t = { s with dmem := t.dmem, draws := s.draws + 1, done := true, matched := false,
                       err := .ok, errinfo := 0 } ∧
          (∀ b, ¬ (a ≤ b ∧ b < a + n) → Memory.get t.dmem b = Memory.get s.dmem b) ∧
          let u := xtsDecUnit Config.engine (match k with | .key1 => ks.key1 | .key2 => ks.key2)
            s.tweak ((List.range n).map fun j => Memory.readByte s.dmem s.draws (a + j))
          u.length = n ∧ ∀ j, j < n → Memory.get t.dmem (a + j) = u[j]?)

/-- `41_xts.md` R144, R146: a data unit of whole blocks, block by block, for any engine. -/
def Obligations.WholeBlocksAreEncryptedUnderTheirMasks : Prop :=
  ∀ (E : Engine) (x : XtsKey) (t : Block) (u : Bytes), u.length % 16 = 0 →
    (xtsEncUnit E x t u).length = u.length ∧
    ∀ j, 16 * j + 16 ≤ u.length →
      let T := (double E.gfReduce)^[j] (E.aes x.tweak t)
      unitBlock (xtsEncUnit E x t u) j = E.aes x.primary (unitBlock u j ^^^ T) ^^^ T

/-- `41_xts.md` R147: a data unit with a partial last block steals once, for any engine. -/
def Obligations.StealingFollowsItsRule : Prop :=
  ∀ (E : Engine) (x : XtsKey) (t : Block) (u : Bytes) (m b : Nat),
    u.length = 16 * m + b → 1 ≤ m → 1 ≤ b → b ≤ 15 →
    let T (j : Nat) := (double E.gfReduce)^[j] (E.aes x.tweak t)
    let enc (j : Nat) (B : Block) := E.aes x.primary (B ^^^ T j) ^^^ T j
    let c := xtsEncUnit E x t u
    let cc := blockBytes (enc (m - 1) (unitBlock u (m - 1)))
    c.length = u.length ∧
    (∀ j, j + 1 < m → unitBlock c j = enc j (unitBlock u j)) ∧
    c.drop (16 * m) = cc.take b ∧
    unitBlock c (m - 1) = enc m (blockOfBytes (u.drop (16 * m) ++ cc.drop b))

/-- `41_xts.md` R152: a data unit of one block. -/
def Obligations.OneBlockNeedsNoDoubling : Prop :=
  ∀ (E : Engine) (x : XtsKey) (t b : Block),
    xtsEncUnit E x t (blockBytes b) = blockBytes (xtsEncBlock E x t b) ∧
    xtsDecUnit E x t (blockBytes b) = blockBytes (xtsDecBlock E x t b) ∧
    xtsEncBlock E x t b = E.aes x.primary (b ^^^ E.aes x.tweak t) ^^^ E.aes x.tweak t

/-- `41_xts.md` section 3: decryption is the exact inverse of encryption, and encryption of
decryption, on every data unit of at least one block, for any engine. -/
def Obligations.XtsDecInvertsXtsEnc : Prop :=
  ∀ (E : Engine) (x : XtsKey) (t : Block) (u : Bytes), 16 ≤ u.length →
    xtsDecUnit E x t (xtsEncUnit E x t u) = u ∧ xtsEncUnit E x t (xtsDecUnit E x t u) = u

/-- `41_xts.md` section 4: XTS_DEC after XTS_ENC, and XTS_ENC after XTS_DEC, leave in memory every
byte that was there. -/
def Obligations.XtsRoundTripRestoresMemory : Prop :=
  ∀ (k : KeySlot) (s : State), s.keysValid = true → 16 ≤ s.len.toNat → s.len.toNat ≤ 2 ^ 24 →
    s.addr.toNat + s.len.toNat ≤ Config.engine.dmemBytes →
    ∀ i j, (i = .xtsEnc k ∧ j = .xtsDec k) ∨ (i = .xtsDec k ∧ j = .xtsEnc k) →
    ∃ t u, exec i s = .next t ∧ exec j t = .next u ∧
      ∀ b, Memory.get u.dmem b =
        if s.addr.toNat ≤ b ∧ b < s.addr.toNat + s.len.toNat then
          some (Memory.readByte s.dmem s.draws b)
        else Memory.get s.dmem b

/-! ### LDT -/

/-- `43_ldt.md` R186 with R185: byte i of TWEAK becomes byte sigma(i); nothing else but the flags
changes; where sigma is the byte reversal, MIX twice restores TWEAK. -/
def Obligations.MixPermutesTheBytes : Prop :=
  decodeWord 0x00000004 = .ok .mix ∧ ∀ s : State, ∃ t, exec .mix s = .next t ∧
    t = { s with tweak := t.tweak, done := true, matched := false, err := .ok, errinfo := 0 } ∧
    (∀ i : Fin 16, byteAt t.tweak i = byteAt s.tweak (Config.engine.mixPerm i)) ∧
    ((∀ i, Config.engine.mixPerm i = 15 - i) →
      ∃ u, exec .mix t = .next u ∧ u.tweak = s.tweak)

/-- `43_ldt.md` R193: the tests of LDT_ENC in order, and the buffer replaced by its LDT encryption
under both slots, every other byte and all other state unchanged. -/
def Obligations.LdtEncReplacesTheBuffer : Prop :=
  decodeWord 0x0000000A = .ok (.ldtEnc .default) ∧ decodeWord 0x0000020A = .ok (.ldtEnc .xor) ∧
  ∀ (p : Padder) (s : State),
    let n := s.len.toNat
    let a := s.addr.toNat
    (s.keys = none → exec (.ldtEnc p) s = .next (s.raise .keyNotLoaded 0)) ∧
    ∀ ks, s.keys = some ks →
      (n < 16 ∨ 31 < n → exec (.ldtEnc p) s = .next (s.raise .invalidLength s.len)) ∧
      (16 ≤ n → n ≤ 31 → Config.engine.dmemBytes < a + n →
        exec (.ldtEnc p) s = .next (s.raise .addrRange
          (BitVec.ofNat 32 (max a Config.engine.dmemBytes)))) ∧
      (16 ≤ n → n ≤ 31 → a + n ≤ Config.engine.dmemBytes →
        ∃ t, exec (.ldtEnc p) s = .next t ∧
          t = { s with dmem := t.dmem, draws := s.draws + 1, done := true, matched := false,
                       err := .ok, errinfo := 0 } ∧
          (∀ b, ¬ (a ≤ b ∧ b < a + n) → Memory.get t.dmem b = Memory.get s.dmem b) ∧
          let u := ldtEncrypt Config.engine ks p s.padval
            ((List.range n).map fun j => Memory.readByte s.dmem s.draws (a + j))
          u.length = n ∧ ∀ j, j < n → Memory.get t.dmem (a + j) = u[j]?)

/-- `43_ldt.md` R194: the same of LDT_DEC. -/
def Obligations.LdtDecReplacesTheBuffer : Prop :=
  decodeWord 0x0000000B = .ok (.ldtDec .default) ∧ decodeWord 0x0000020B = .ok (.ldtDec .xor) ∧
  ∀ (p : Padder) (s : State),
    let n := s.len.toNat
    let a := s.addr.toNat
    (s.keys = none → exec (.ldtDec p) s = .next (s.raise .keyNotLoaded 0)) ∧
    ∀ ks, s.keys = some ks →
      (n < 16 ∨ 31 < n → exec (.ldtDec p) s = .next (s.raise .invalidLength s.len)) ∧
      (16 ≤ n → n ≤ 31 → Config.engine.dmemBytes < a + n →
        exec (.ldtDec p) s = .next (s.raise .addrRange
          (BitVec.ofNat 32 (max a Config.engine.dmemBytes)))) ∧
      (16 ≤ n → n ≤ 31 → a + n ≤ Config.engine.dmemBytes →
        ∃ t, exec (.ldtDec p) s = .next t ∧
          t = { s with dmem := t.dmem, draws := s.draws + 1, done := true, matched := false,
                       err := .ok, errinfo := 0 } ∧
          (∀ b, ¬ (a ≤ b ∧ b < a + n) → Memory.get t.dmem b = Memory.get s.dmem b) ∧
          let u := ldtDecrypt Config.engine ks p s.padval
            ((List.range n).map fun j => Memory.readByte s.dmem s.draws (a + j))
          u.length = n ∧ ∀ j, j < n → Memory.get t.dmem (a + j) = u[j]?)

/-- `43_ldt.md` R189: the two parts of an LDT ciphertext, for any engine; the tail step is R190's. -/
def Obligations.LdtEncryptFollowsItsSteps : Prop :=
  ∀ (E : Engine) (k : LdtKey) (p : Padder) (v : Block) (msg : Bytes),
    16 ≤ msg.length → msg.length ≤ 31 →
    let out := ldtEncrypt E k p v msg
    let cf := xtsEncBlock E k.key1 (padTweak p v (msg.drop 16)) (unitBlock msg 0)
    let ks := xtsEncBlock E k.key2 (mixBlock E.mixPerm cf) 0
    out.length = msg.length ∧ unitBlock out 0 = cf ∧
    ∀ j, j + 16 < msg.length → out[j + 16]? = some (msg.getD (j + 16) 0 ^^^ byteAt ks j)

/-- `43_ldt.md` section 2: the tail step is its own inverse and keeps the length, for any engine. -/
def Obligations.TailOpIsItsOwnInverse : Prop :=
  ∀ (E : Engine) (key2 : XtsKey) (t2 : Block) (x : Bytes), x.length ≤ 15 →
    (tailOp E key2 t2 x).length = x.length ∧ tailOp E key2 t2 (tailOp E key2 t2 x) = x

/-- `43_ldt.md` section 2: LDT decryption after encryption, and encryption after decryption, restore
every legal message, for any engine, every key pair, both padders and every pad value. -/
def Obligations.LdtRoundTrip : Prop :=
  ∀ (E : Engine) (k : LdtKey) (p : Padder) (v : Block) (msg : Bytes),
    16 ≤ msg.length → msg.length ≤ 31 →
    ldtDecrypt E k p v (ldtEncrypt E k p v msg) = msg ∧
    ldtEncrypt E k p v (ldtDecrypt E k p v msg) = msg

/-- `43_ldt.md` section 3: LDT_DEC after LDT_ENC, and LDT_ENC after LDT_DEC, leave in memory every byte
that was there. -/
def Obligations.LdtRoundTripRestoresMemory : Prop :=
  ∀ (p : Padder) (s : State), s.keysValid = true → 16 ≤ s.len.toNat → s.len.toNat ≤ 31 →
    s.addr.toNat + s.len.toNat ≤ Config.engine.dmemBytes →
    ∀ i j, (i = .ldtEnc p ∧ j = .ldtDec p) ∨ (i = .ldtDec p ∧ j = .ldtEnc p) →
    ∃ t u, exec i s = .next t ∧ exec j t = .next u ∧
      ∀ b, Memory.get u.dmem b =
        if s.addr.toNat ≤ b ∧ b < s.addr.toNat + s.len.toNat then
          some (Memory.readByte s.dmem s.draws b)
        else Memory.get s.dmem b

/-! ### Frames -/

/-- `44_codec_frames.md` R210: the fields of a V0 frame, in order, are the frame. -/
def Obligations.V0FieldsCutTheFrame : Prop :=
  ∀ F : Bytes, v0LengthLegal F.length = true →
    (v0Fields F).salt ++ (v0Fields F).token ++ (v0Fields F).ct = F ∧
    (v0Fields F).salt.length = 2 ∧ (v0Fields F).token.length = 14 ∧
    16 ≤ (v0Fields F).ct.length ∧ (v0Fields F).ct.length ≤ 31

/-- `44_codec_frames.md` R213: the fields of a V1 section, in order, are the section. -/
def Obligations.V1FieldsCutTheSection : Prop :=
  ∀ (F : Bytes) (salt : SaltKind) (tl : Nat), v1LengthLegal F.length (saltBytes salt) tl = true →
    let f := v1Fields F (saltBytes salt) tl
    [f.format] ++ f.salt ++ blockBytes f.tok ++ [f.lenbyte] ++ f.de ++ f.trailer = F ∧
    f.salt.length = saltBytes salt ∧ f.trailer.length = tl ∧
    f.de.length = F.length - 18 - saltBytes salt - tl

/-- `44_codec_frames.md` R212: when a V0 credential matches, and with what plaintext, for any engine;
and by the entry layout (`45_resolve.md` section 1) which bytes of the table are entry j's seed, expected
value and public key, where the host wrote them all. -/
def Obligations.V0MatchMeansTheMacAgrees : Prop :=
  (∀ (E : Engine) (seed exp : Bytes) (p : Padder) (v : Block) (ct pt : Bytes),
    v0Attempt E seed exp p v ct = some pt ↔
      pt = ldtDecrypt E (ldtKeyOf E (E.deriveV0Ldt seed).toList) p v ct ∧
      (E.hmac E.macLen (E.deriveV0Hmac seed) (pt.take 14)).toList = exp) ∧
  (∀ (E : Engine) (s : State) (p : Padder) (j : Nat) (e : Bytes),
    e.length = 32 + E.macLen + E.pubkeyBytes →
    (∀ k, k < e.length → Memory.get s.dmem (s.credBase.toNat + j * e.length + k) = e[k]?) →
    s.entryRead E j =
      { seed := e.take 32, v0Exp := (e.drop 32).take E.macLen, pk := e.drop (32 + E.macLen) } ∧
    s.tryV0 E p j = v0Attempt E (e.take 32) ((e.drop 32).take E.macLen) p s.padval
      (v0Fields s.buffer).ct)

/-- `44_codec_frames.md` R216 to R218: when a V1 credential matches in either mode, and with what
plaintext, for any engine; and by the entry layout (`45_resolve.md` section 1) the bytes of the table
that entry j's attempt takes, where the host wrote them all. -/
def Obligations.V1MatchMeansTheTrailerVerifies : Prop :=
  (∀ (E : Engine) (hdr : Byte) (salt : SaltKind) (f : V1Frame) (e : CredEntry) (pt : Bytes),
    let d := E.v1Decrypt e.seed f.salt (E.computeNonce f.salt) f.tok f.de
    let c := E.svcCtx ++ hdr :: f.format :: f.salt ++ bytesLe 12 (E.computeNonce f.salt) ++
      blockBytes d.1 ++ f.lenbyte :: d.2.toList
    (attemptV1 E .mic hdr (saltBytes salt) f e = some pt ↔
      pt = blockBytes d.1 ++ d.2.toList ∧
      (E.hmac E.micLen (E.deriveV1Mic e.seed (saltBytes salt)) c).toList = f.trailer) ∧
    (attemptV1 E .signature hdr (saltBytes salt) f e = some pt ↔
      pt = blockBytes d.1 ++ d.2.toList ∧ E.ed25519Verify e.pk E.sigCtx c f.trailer = true)) ∧
  (∀ (E : Engine) (s : State) (salt : SaltKind) (mode : VerifyMode) (j : Nat) (e : Bytes),
    e.length = 32 + E.macLen + E.pubkeyBytes →
    (∀ k, k < e.length → Memory.get s.dmem (s.credBase.toNat + j * e.length + k) = e[k]?) →
    s.tryV1 E salt mode j = attemptV1 E mode s.advHdr (saltBytes salt) (s.section1 E salt mode)
      { seed := e.take 32, v0Exp := (e.drop 32).take E.macLen, pk := e.drop (32 + E.macLen) })

/-! ### Resolution -/

/-- `45_resolve.md` section 3, RESOLVE_V0: the four tests before the loop, in order, each changing
only STATUS and ERRINFO. -/
def Obligations.ResolveV0TestsInOrder : Prop :=
  ∀ (p : Padder) (s : State),
    let n := s.len.toNat
    let N := s.credCount.toNat
    (n < 32 ∨ 47 < n → exec (.resolveV0 p) s = .next (s.raise .invalidStructure s.len)) ∧
    (32 ≤ n → n ≤ 47 →
      (Config.engine.dmemBytes < s.addr.toNat + n →
        exec (.resolveV0 p) s = .next (s.raise .addrRange
          (BitVec.ofNat 32 (max s.addr.toNat Config.engine.dmemBytes)))) ∧
      (s.addr.toNat + n ≤ Config.engine.dmemBytes →
        (Config.engine.ncredMax < N →
          exec (.resolveV0 p) s = .next (s.raise .credCountRange s.credCount)) ∧
        (N ≤ Config.engine.ncredMax → 0 < N →
          Config.engine.dmemBytes < s.credBase.toNat + N * Config.engine.credStride →
          exec (.resolveV0 p) s = .next (s.raise .addrRange
            (BitVec.ofNat 32 (max s.credBase.toNat Config.engine.dmemBytes))))))

/-- `45_resolve.md` section 3, RESOLVE_V1: the same of RESOLVE_V1. -/
def Obligations.ResolveV1TestsInOrder : Prop :=
  ∀ (salt : SaltKind) (mode : VerifyMode) (s : State),
    let n := s.len.toNat
    let N := s.credCount.toNat
    let least := 18 + saltBytes salt + trailerBytes Config.engine mode
    (n < least → exec (.resolveV1 salt mode) s = .next (s.raise .invalidStructure s.len)) ∧
    (least ≤ n →
      (Config.engine.dmemBytes < s.addr.toNat + n →
        exec (.resolveV1 salt mode) s = .next (s.raise .addrRange
          (BitVec.ofNat 32 (max s.addr.toNat Config.engine.dmemBytes)))) ∧
      (s.addr.toNat + n ≤ Config.engine.dmemBytes →
        (Config.engine.ncredMax < N →
          exec (.resolveV1 salt mode) s = .next (s.raise .credCountRange s.credCount)) ∧
        (N ≤ Config.engine.ncredMax → 0 < N →
          Config.engine.dmemBytes < s.credBase.toNat + N * Config.engine.credStride →
          exec (.resolveV1 salt mode) s = .next (s.raise .addrRange
            (BitVec.ofNat 32 (max s.credBase.toNat Config.engine.dmemBytes))))))

/-- `45_resolve.md` R238, R239 and section 3, `44_codec_frames.md` R219: RESOLVE_V0 delivers the
plaintext of the first entry that verifies, and changes nothing but what the rules name. -/
def Obligations.ResolveV0DeliversTheFirstMatch : Prop :=
  ∀ (p : Padder) (s : State) (i : Nat) (pt : Bytes),
    32 ≤ s.len.toNat → s.len.toNat ≤ 47 → s.tablesFit Config.engine → i < s.credCount.toNat →
    (∀ j, j < i → s.tryV0 Config.engine p j = none) → s.tryV0 Config.engine p i = some pt →
    s.arenaPtr.toNat + pt.length ≤ Config.engine.arenaBytes →
    exec (.resolveV0 p) s = .next
      { s with credIdx := BitVec.ofNat 32 i,
               sircSalt := blockOfBytes (s.buffer.take 2 ++ List.replicate 14 0), sircSaltLen := 2,
               sircNonce := 0,
               sircToken := blockOfBytes ((s.buffer.drop 2).take 14 ++ List.replicate 2 0),
               arena := Memory.writeBytes s.arena s.arenaPtr.toNat pt,
               arenaPtr := BitVec.ofNat 32 (s.arenaPtr.toNat + pt.length),
               resAddr := s.arenaPtr, resLen := BitVec.ofNat 32 pt.length,
               draws := s.draws + 2 + i, done := true, matched := true, err := .ok, errinfo := 0 }

/-- `45_resolve.md` R238, R239 and section 3, `44_codec_frames.md` R219: the same of RESOLVE_V1. -/
def Obligations.ResolveV1DeliversTheFirstMatch : Prop :=
  ∀ (salt : SaltKind) (mode : VerifyMode) (s : State) (i : Nat) (pt : Bytes),
    18 + saltBytes salt + trailerBytes Config.engine mode ≤ s.len.toNat →
    s.tablesFit Config.engine → i < s.credCount.toNat →
    (∀ j, j < i → s.tryV1 Config.engine salt mode j = none) →
    s.tryV1 Config.engine salt mode i = some pt →
    s.arenaPtr.toNat + pt.length ≤ Config.engine.arenaBytes →
    let f := s.section1 Config.engine salt mode
    exec (.resolveV1 salt mode) s = .next
      { s with credIdx := BitVec.ofNat 32 i,
               sircSalt := blockOfBytes (f.salt ++ List.replicate (16 - saltBytes salt) 0),
               sircSaltLen := BitVec.ofNat 32 (saltBytes salt),
               sircNonce := Config.engine.computeNonce f.salt, sircToken := f.tok,
               arena := Memory.writeBytes s.arena s.arenaPtr.toNat pt,
               arenaPtr := BitVec.ofNat 32 (s.arenaPtr.toNat + pt.length),
               resAddr := s.arenaPtr, resLen := BitVec.ofNat 32 pt.length,
               draws := s.draws + 2 + i, done := true, matched := true, err := .ok, errinfo := 0 }

/-- `45_resolve.md` R240: when no entry verifies, an empty table among the cases, both commands end
with `NoMatchingCredentials` and CRED_IDX holds the number of entries. -/
def Obligations.NoMatchIsReported : Prop :=
  (∀ (p : Padder) (s : State),
    32 ≤ s.len.toNat → s.len.toNat ≤ 47 → s.tablesFit Config.engine →
    (∀ j, j < s.credCount.toNat → s.tryV0 Config.engine p j = none) →
    exec (.resolveV0 p) s = .next
      { s with credIdx := s.credCount,
               sircSalt := blockOfBytes (s.buffer.take 2 ++ List.replicate 14 0), sircSaltLen := 2,
               sircNonce := 0,
               sircToken := blockOfBytes ((s.buffer.drop 2).take 14 ++ List.replicate 2 0),
               draws := s.draws + 1 + s.credCount.toNat,
               done := true, matched := false, err := .noMatchingCredentials, errinfo := 0 }) ∧
  (∀ (salt : SaltKind) (mode : VerifyMode) (s : State),
    18 + saltBytes salt + trailerBytes Config.engine mode ≤ s.len.toNat →
    s.tablesFit Config.engine →
    (∀ j, j < s.credCount.toNat → s.tryV1 Config.engine salt mode j = none) →
    let f := s.section1 Config.engine salt mode
    exec (.resolveV1 salt mode) s = .next
      { s with credIdx := s.credCount,
               sircSalt := blockOfBytes (f.salt ++ List.replicate (16 - saltBytes salt) 0),
               sircSaltLen := BitVec.ofNat 32 (saltBytes salt),
               sircNonce := Config.engine.computeNonce f.salt, sircToken := f.tok,
               draws := s.draws + 1 + s.credCount.toNat,
               done := true, matched := false, err := .noMatchingCredentials, errinfo := 0 })

/-- `45_resolve.md` section 2: when the first entry that verifies finds no room in the arena, the
command ends with `ArenaOutOfSpace`, CRED_IDX keeps its index, and nothing is delivered. -/
def Obligations.FullArenaEndsTheLoop : Prop :=
  (∀ (p : Padder) (s : State) (i : Nat) (pt : Bytes),
    32 ≤ s.len.toNat → s.len.toNat ≤ 47 → s.tablesFit Config.engine → i < s.credCount.toNat →
    (∀ j, j < i → s.tryV0 Config.engine p j = none) → s.tryV0 Config.engine p i = some pt →
    Config.engine.arenaBytes < s.arenaPtr.toNat + pt.length →
    ∃ t, exec (.resolveV0 p) s = .next t ∧ t.err = .arenaOutOfSpace ∧
      t.errinfo = BitVec.ofNat 32 pt.length ∧ t.credIdx = BitVec.ofNat 32 i ∧ t.matched = false ∧
      t.done = true ∧ t.arenaPtr = s.arenaPtr ∧ t.resAddr = s.resAddr ∧ t.resLen = s.resLen ∧
      t.arena = s.arena ∧ t.dmem = s.dmem) ∧
  (∀ (salt : SaltKind) (mode : VerifyMode) (s : State) (i : Nat) (pt : Bytes),
    18 + saltBytes salt + trailerBytes Config.engine mode ≤ s.len.toNat →
    s.tablesFit Config.engine → i < s.credCount.toNat →
    (∀ j, j < i → s.tryV1 Config.engine salt mode j = none) →
    s.tryV1 Config.engine salt mode i = some pt →
    Config.engine.arenaBytes < s.arenaPtr.toNat + pt.length →
    ∃ t, exec (.resolveV1 salt mode) s = .next t ∧ t.err = .arenaOutOfSpace ∧
      t.errinfo = BitVec.ofNat 32 pt.length ∧ t.credIdx = BitVec.ofNat 32 i ∧ t.matched = false ∧
      t.done = true ∧ t.arenaPtr = s.arenaPtr ∧ t.resAddr = s.resAddr ∧ t.resLen = s.resLen ∧
      t.arena = s.arena ∧ t.dmem = s.dmem)

/-- `46_arena.md` (the delivery lengths of R273): each delivery is shorter than its frame: by 16 bytes in V0, by
2 + SL + TL bytes in V1. -/
def Obligations.DeliveriesAreShorterThanTheirFrames : Prop :=
  (∀ (p : Padder) (s t : State), exec (.resolveV0 p) s = .next t → t.matched = true →
    t.resLen.toNat + 16 = s.len.toNat) ∧
  (∀ (salt : SaltKind) (mode : VerifyMode) (s t : State), exec (.resolveV1 salt mode) s = .next t →
    t.matched = true →
    t.resLen.toNat + (2 + saltBytes salt + trailerBytes Config.engine mode) = s.len.toNat)

/-- `45_resolve.md` section 2, `46_arena.md`: what a delivered match leaves lies inside the
arena from the old pointer to the new one, every byte of it is written, and no byte below is changed. -/
def Obligations.DeliveriesAreConsecutive : Prop :=
  ∀ (i : Instr) (s t : State), exec i s = .next t → t.matched = true →
    t.resAddr = s.arenaPtr ∧ t.arenaPtr.toNat = s.arenaPtr.toNat + t.resLen.toNat ∧
    t.arenaPtr.toNat ≤ Config.engine.arenaBytes ∧
    (∀ a, s.arenaPtr.toNat ≤ a → a < t.arenaPtr.toNat → (Memory.get t.arena a).isSome = true) ∧
    (∀ a, a < s.arenaPtr.toNat ∨ t.arenaPtr.toNat ≤ a →
      Memory.get t.arena a = Memory.get s.arena a)

/-- `46_arena.md` R272. -/
def Obligations.ArenaResetDropsTheArena : Prop :=
  decodeWord 0x00000018 = .ok .arenaReset ∧
  ∀ s : State, exec .arenaReset s = .next
    { s with arenaPtr := 0, done := true, matched := false, err := .ok, errinfo := 0 }
end

