-- ==== Sys2Proof/Laws/Bytes.lean ====
section
/-! SUPPORT. Byte order: a value and its bytes determine each other. -/

namespace Sys2Proof

/-! ### Lengths -/

@[simp] theorem length_bytesLe {w : Nat} (n : Nat) (v : BitVec w) : (bytesLe n v).length = n := by
  simp [bytesLe]

@[simp] theorem length_blockBytes (b : Block) : (blockBytes b).length = 16 := length_bytesLe 16 b

@[simp] theorem length_zeros (n : Nat) : (zeros n).length = n := by simp [zeros]

@[simp] theorem length_xorBytes (a b : Bytes) : (xorBytes a b).length = min a.length b.length := by
  simp [xorBytes]

@[simp] theorem length_slice (bs : Bytes) (a b : Nat) :
    (slice bs a b).length = min (b - a) (bs.length - a) := by simp [slice]

/-! ### Bytes of values -/

theorem getElem?_bytesLe {w : Nat} (n : Nat) (v : BitVec w) (i : Nat) :
    (bytesLe n v)[i]? = if i < n then some (byteAt v i) else none := by
  by_cases h : i < n <;> simp [bytesLe, h]

theorem getElem_bytesLe {w : Nat} (n : Nat) (v : BitVec w) (i : Nat) (h : i < (bytesLe n v).length) :
    (bytesLe n v)[i] = byteAt v i := by simp [bytesLe]

theorem getElem_blockBytes (b : Block) (i : Nat) (h : i < (blockBytes b).length) :
    (blockBytes b)[i] = byteAt b i := getElem_bytesLe 16 b i h

@[simp] theorem byteAt_xor {w : Nat} (a b : BitVec w) (i : Nat) :
    byteAt (a ^^^ b) i = byteAt a i ^^^ byteAt b i := by
  simp [byteAt, BitVec.extractLsb'_xor]

@[simp] theorem byteAt_zero {w : Nat} (i : Nat) : byteAt (0 : BitVec w) i = 0 := by
  simp [byteAt]

theorem byteAt_toNat {w : Nat} (v : BitVec w) (i : Nat) :
    (byteAt v i).toNat = v.toNat / 256 ^ i % 256 := by
  have h : (2 : Nat) ^ (8 * i) = 256 ^ i := by rw [Nat.pow_mul]
  simp [byteAt, BitVec.extractLsb'_toNat, Nat.shiftRight_eq_div_pow, h]

theorem leNat_lt (bs : Bytes) : leNat bs < 256 ^ bs.length := by
  induction bs with
  | nil => simp [leNat]
  | cons b bs ih =>
    have hb : b.toNat < 256 := b.isLt
    simp only [leNat, List.length_cons, Nat.pow_succ]
    omega

/-- Byte i of the number of a byte string is its byte i. -/
theorem leNat_div_mod (bs : Bytes) (i : Nat) : leNat bs / 256 ^ i % 256 = (bs.getD i 0).toNat := by
  induction bs generalizing i with
  | nil => simp [leNat]
  | cons b bs ih =>
    have hb : b.toNat < 256 := b.isLt
    cases i with
    | zero =>
      simp only [leNat, Nat.pow_zero, Nat.div_one, List.getD_cons_zero]
      omega
    | succ i =>
      have h : (b.toNat + 256 * leNat bs) / 256 = leNat bs := by omega
      simp only [leNat, Nat.pow_succ', ← Nat.div_div_eq_div_mul, h, ih, List.getD_cons_succ]

/-- Byte i of the value of a byte string is its byte i, 0 beyond its end. -/
theorem byteAt_ofBytesLe (w : Nat) (bs : Bytes) (i : Nat) (h : 256 ^ bs.length ≤ 2 ^ w) :
    byteAt (ofBytesLe w bs) i = bs.getD i 0 := by
  have hlt := Nat.lt_of_lt_of_le (leNat_lt bs) h
  apply BitVec.eq_of_toNat_eq
  rw [byteAt_toNat, ofBytesLe, BitVec.toNat_ofNat, Nat.mod_eq_of_lt hlt, leNat_div_mod]

theorem byteAt_blockOfBytes (bs : Bytes) (i : Nat) (h : bs.length ≤ 16) :
    byteAt (blockOfBytes bs) i = bs.getD i 0 := by
  apply byteAt_ofBytesLe
  have : (256 : Nat) ^ bs.length ≤ 256 ^ 16 := Nat.pow_le_pow_right (by omega) h
  exact Nat.le_trans this (by decide)

/-- Two blocks with the same 16 bytes are equal. -/
theorem block_ext {a b : Block} (h : ∀ i, i < 16 → byteAt a i = byteAt b i) : a = b := by
  apply BitVec.eq_of_getLsbD_eq
  intro k hk
  have e := congrArg (fun x : Byte => x.getLsbD (k % 8)) (h (k / 8) (by omega))
  have hm : k % 8 < 8 := Nat.mod_lt _ (by omega)
  simpa [byteAt, BitVec.getLsbD_extractLsb', hm, Nat.div_add_mod] using e

@[simp] theorem blockOfBytes_blockBytes (b : Block) : blockOfBytes (blockBytes b) = b := by
  apply block_ext
  intro i hi
  rw [byteAt_blockOfBytes _ _ (by simp), List.getD_eq_getElem _ _ (by simpa using hi),
    getElem_blockBytes]

theorem blockBytes_blockOfBytes (bs : Bytes) (h : bs.length = 16) :
    blockBytes (blockOfBytes bs) = bs := by
  apply List.ext_getElem (by simp [h])
  intro i h1 h2
  rw [getElem_blockBytes, byteAt_blockOfBytes _ _ (by omega), List.getD_eq_getElem _ _ h2]

/-- Words, laid out and read back. -/
theorem ofBytesLe_bytesLe_word (w : Word) : ofBytesLe 32 (bytesLe 4 w) = w := by
  apply BitVec.eq_of_toNat_eq
  have h := w.isLt
  have e : leNat (bytesLe 4 w) = w.toNat := by
    simp only [bytesLe, List.range, List.range.loop, List.map, leNat, byteAt_toNat]
    omega
  rw [ofBytesLe, BitVec.toNat_ofNat, e]
  omega

/-! ### Words of multi-word registers -/

theorem getLsbD_wordAt {w : Nat} (v : BitVec w) (n k : Nat) :
    (wordAt v n).getLsbD k = (decide (k < 32) && v.getLsbD (32 * n + k)) := by
  simp [wordAt, BitVec.getLsbD_extractLsb']

/-- The bits of a four-word register after word n is replaced. -/
theorem getLsbD_setWordAt (v : Block) (n : Nat) (x : Word) (k : Nat) (hk : k < 128) :
    (setWordAt v n x).getLsbD k =
      if 32 * n ≤ k ∧ k < 32 * n + 32 then x.getLsbD (k - 32 * n) else v.getLsbD k := by
  simp only [setWordAt, BitVec.getLsbD_or, BitVec.getLsbD_and, BitVec.getLsbD_not,
    BitVec.getLsbD_shiftLeft, BitVec.getLsbD_setWidth, BitVec.getLsbD_allOnes]
  by_cases h1 : k < 32 * n
  · simp [h1, hk, show ¬ (32 * n ≤ k) by omega]
  · by_cases h2 : k < 32 * n + 32
    · simp [h1, h2, hk, show 32 * n ≤ k by omega, show k - 32 * n < 32 by omega,
        show k - 32 * n < 128 by omega]
    · simp [h1, h2, hk, show ¬ (k - 32 * n < 32) by omega,
        BitVec.getLsbD_of_ge x (k - 32 * n) (by omega)]

theorem wordAt_setWordAt_same (v : Block) (n : Nat) (x : Word) (hn : n < 4) :
    wordAt (setWordAt v n x) n = x := by
  apply BitVec.eq_of_getLsbD_eq
  intro k hk
  rw [getLsbD_wordAt, getLsbD_setWordAt _ _ _ _ (by omega)]
  simp [hk]

theorem wordAt_setWordAt_other (v : Block) (n m : Nat) (x : Word) (hm : m < 4) (h : m ≠ n) :
    wordAt (setWordAt v n x) m = wordAt v m := by
  apply BitVec.eq_of_getLsbD_eq
  intro k hk
  rw [getLsbD_wordAt, getLsbD_wordAt, getLsbD_setWordAt _ _ _ _ (by omega),
    if_neg (by omega)]

end Sys2Proof
end

