-- ==== Sys2Proof/Laws/Memory.lean ====
section
/-! SUPPORT. The laws of memory: a read after a write to the same place gives the value written, a
write leaves every other place alone, and every operation keeps the canonical form. -/

namespace Sys2Proof.Machine

/-! ### Reading after writing -/

theorem Memory.get_set (m : Memory) (a : Nat) (v : Byte) (x : Nat) :
    Memory.get (Memory.set m a v) x = if x = a then some v else Memory.get m x := by
  induction m with
  | nil => by_cases h : a = x <;> simp [Memory.set, Memory.get, h, eq_comm]
  | cons c m ih =>
    obtain ⟨b, u⟩ := c
    simp only [Memory.set]
    split
    · by_cases h : a = x <;> simp [Memory.get, h, eq_comm]
    · split
      · rename_i h
        subst h
        by_cases h : a = x
        · simp [Memory.get, h]
        · simp [Memory.get, h, Ne.symm h]
      · rename_i h1 h2
        simp only [Memory.get, ih]
        by_cases hb : b = x
        · simp [hb, show ¬ x = a by omega]
        · simp [hb]

/-- What `MemWrite` leaves at every address. -/
theorem Memory.get_writeBytes (m : Memory) (a : Nat) (bs : Bytes) (x : Nat) :
    Memory.get (Memory.writeBytes m a bs) x =
      if a ≤ x ∧ x < a + bs.length then bs[x - a]? else Memory.get m x := by
  induction bs generalizing m a with
  | nil => simp [Memory.writeBytes, show ¬ (a ≤ x ∧ x < a) by omega]
  | cons b bs ih =>
    simp only [Memory.writeBytes, ih, Memory.get_set, List.length_cons]
    by_cases h1 : a + 1 ≤ x ∧ x < a + 1 + bs.length
    · rw [if_pos h1, if_pos (by omega), show x - a = (x - (a + 1)) + 1 by omega,
        List.getElem?_cons_succ]
    · rw [if_neg h1]
      by_cases h2 : x = a
      · subst h2
        simp
      · rw [if_neg h2, if_neg (by omega)]

theorem Memory.get_writeBytes_inside (m : Memory) (a : Nat) (bs : Bytes) (j : Nat) (h : j < bs.length) :
    Memory.get (Memory.writeBytes m a bs) (a + j) = some bs[j] := by
  rw [Memory.get_writeBytes, if_pos (by omega), Nat.add_sub_cancel_left, List.getElem?_eq_getElem h]

theorem Memory.get_writeBytes_outside (m : Memory) (a : Nat) (bs : Bytes) (x : Nat)
    (h : ¬ (a ≤ x ∧ x < a + bs.length)) :
    Memory.get (Memory.writeBytes m a bs) x = Memory.get m x := by
  rw [Memory.get_writeBytes, if_neg h]

@[simp] theorem Memory.length_readBytes (m : Memory) (d a n : Nat) :
    (Memory.readBytes m d a n).length = n := by simp [Memory.readBytes]

theorem Memory.getElem_readBytes (m : Memory) (d a n j : Nat) (h : j < (Memory.readBytes m d a n).length) :
    (Memory.readBytes m d a n)[j] = Memory.readByte m d (a + j) := by simp [Memory.readBytes]

/-- A read of a range whose bytes are all defined gives those bytes, whatever the number of the read. -/
theorem Memory.readBytes_of_get {m : Memory} {a : Nat} {bs : Bytes} (d : Nat)
    (h : ∀ k, k < bs.length → Memory.get m (a + k) = bs[k]?) :
    Memory.readBytes m d a bs.length = bs := by
  apply List.ext_getElem (by simp)
  intro j h1 h2
  rw [Memory.getElem_readBytes, Memory.readByte, h j h2, List.getElem?_eq_getElem h2]
  rfl

/-- Reading back what was written, whatever the number of the read. -/
theorem Memory.readBytes_writeBytes (m : Memory) (d a : Nat) (bs : Bytes) :
    Memory.readBytes (Memory.writeBytes m a bs) d a bs.length = bs :=
  Memory.readBytes_of_get d fun k hk => by
    rw [Memory.get_writeBytes_inside _ _ _ _ hk, List.getElem?_eq_getElem hk]

/-- Two memories with the same bytes in a range read the same there. -/
theorem Memory.readBytes_congr (m m' : Memory) (d a n : Nat)
    (h : ∀ x, a ≤ x → x < a + n → Memory.get m x = Memory.get m' x) :
    Memory.readBytes m d a n = Memory.readBytes m' d a n := by
  apply List.map_congr_left
  intro j hj
  rw [Memory.readByte, Memory.readByte, h (a + j) (by omega) (by simp at hj; omega)]

/-- A write elsewhere does not change what a range reads as. -/
theorem Memory.readBytes_writeBytes_outside (m : Memory) (d a n b : Nat) (bs : Bytes)
    (h : a + n ≤ b ∨ b + bs.length ≤ a) :
    Memory.readBytes (Memory.writeBytes m b bs) d a n = Memory.readBytes m d a n := by
  apply Memory.readBytes_congr
  intro x h1 h2
  rw [Memory.get_writeBytes_outside _ _ _ _ (by omega)]

/-! ### The canonical form -/

/-- The entries after a write: the one written, and old ones. -/
theorem Memory.mem_set {m : Memory} {a : Nat} {v : Byte} {c : Host.Cell}
    (h : c ∈ Memory.set m a v) : c = (a, v) ∨ c ∈ m := by
  induction m with
  | nil => simpa [Memory.set] using h
  | cons d m ih =>
    obtain ⟨b, u⟩ := d
    simp only [Memory.set] at h
    split at h
    · simpa using h
    · split at h
      · rcases List.mem_cons.1 h with h | h
        · exact .inl h
        · exact .inr (List.mem_cons_of_mem _ h)
      · rcases List.mem_cons.1 h with h | h
        · exact .inr (h ▸ List.mem_cons_self)
        · exact (ih h).imp id (List.mem_cons_of_mem _)

theorem Memory.mem_writeBytes {m : Memory} {a : Nat} {bs : Bytes} {c : Host.Cell}
    (h : c ∈ Memory.writeBytes m a bs) : (a ≤ c.1 ∧ c.1 < a + bs.length) ∨ c ∈ m := by
  induction bs generalizing m a with
  | nil => exact .inr h
  | cons b bs ih =>
    simp only [Memory.writeBytes] at h
    rcases ih h with h | h
    · exact .inl ⟨by omega, by simp; omega⟩
    · rcases Memory.mem_set h with h | h
      · subst h
        exact .inl ⟨by simp, by simp⟩
      · exact .inr h

theorem Memory.wf_iff (m : Memory) : Memory.wf m = true ↔ m.Pairwise fun x y => x.1 < y.1 := by
  simp [Memory.wf]

theorem Memory.wf_set {m : Memory} (h : Memory.wf m = true) (a : Nat) (v : Byte) :
    Memory.wf (Memory.set m a v) = true := by
  rw [Memory.wf_iff] at h ⊢
  induction m with
  | nil => simp [Memory.set]
  | cons c m ih =>
    obtain ⟨b, u⟩ := c
    obtain ⟨h1, h2⟩ := List.pairwise_cons.1 h
    simp only [Memory.set]
    split
    · rename_i hab
      refine List.pairwise_cons.2 ⟨?_, h⟩
      intro y hy
      rcases List.mem_cons.1 hy with rfl | hy
      · exact hab
      · exact Nat.lt_trans hab (h1 y hy)
    · split
      · rename_i hab
        subst hab
        exact List.pairwise_cons.2 ⟨fun y hy => h1 y hy, h2⟩
      · refine List.pairwise_cons.2 ⟨?_, ih h2⟩
        intro y hy
        rcases Memory.mem_set hy with rfl | hy
        · show b < a
          omega
        · exact h1 y hy

theorem Memory.wf_writeBytes {m : Memory} (h : Memory.wf m = true) (a : Nat) (bs : Bytes) :
    Memory.wf (Memory.writeBytes m a bs) = true := by
  induction bs generalizing m a with
  | nil => exact h
  | cons b bs ih => exact ih (Memory.wf_set h a b) (a + 1)

theorem Memory.get_eq_none_of_lt {m : Memory} {a : Nat} (h : ∀ c ∈ m, a < c.1) :
    Memory.get m a = none := by
  induction m with
  | nil => rfl
  | cons c m ih =>
    have h1 := h c List.mem_cons_self
    rw [Memory.get, if_neg (by omega), ih fun d hd => h d (List.mem_cons_of_mem _ hd)]

/-- Canonical memories with the same bytes are equal data. -/
theorem Memory.ext_of_wf {m m' : Memory} (h : Memory.wf m = true) (h' : Memory.wf m' = true)
    (e : ∀ a, Memory.get m a = Memory.get m' a) : m = m' := by
  rw [Memory.wf_iff] at h h'
  induction m generalizing m' with
  | nil =>
    cases m' with
    | nil => rfl
    | cons c m' => simpa [Memory.get] using e c.1
  | cons c m ih =>
    obtain ⟨b, u⟩ := c
    obtain ⟨h1, h2⟩ := List.pairwise_cons.1 h
    cases m' with
    | nil => simpa [Memory.get] using e b
    | cons c' m' =>
      obtain ⟨b', u'⟩ := c'
      obtain ⟨h1', h2'⟩ := List.pairwise_cons.1 h'
      have hb : b = b' := by
        rcases Nat.lt_trichotomy b b' with hlt | heq | hlt
        · have := e b
          rw [Memory.get, if_pos rfl, Memory.get, if_neg (by omega),
            Memory.get_eq_none_of_lt fun d hd => Nat.lt_trans hlt (h1' d hd)] at this
          cases this
        · exact heq
        · have := e b'
          rw [Memory.get, if_neg (by omega),
            Memory.get_eq_none_of_lt fun d hd => Nat.lt_trans hlt (h1 d hd), Memory.get, if_pos rfl] at this
          cases this
      subst hb
      have hu : u = u' := by simpa [Memory.get] using e b
      subst hu
      congr 1
      refine ih h2 h2' fun a => ?_
      by_cases ha : b = a
      · subst ha
        rw [Memory.get_eq_none_of_lt h1, Memory.get_eq_none_of_lt h1']
      · simpa [Memory.get, ha] using e a

/-! ### DMEM -/

@[simp] theorem State.length_dmemBytes (s : State) (a n : Nat) : (s.dmemBytes a n).length = n :=
  Memory.length_readBytes ..

theorem reset_memories_wf : Memory.wf State.reset.dmem = true ∧ Memory.wf State.reset.arena = true := by
  decide

end Sys2Proof.Machine
end

