-- ==== Sys2Proof/Laws/State.lean ====
section
/-! SUPPORT. One lemma per field per update of the state, so that no proof unfolds a record update. -/

namespace Sys2Proof.Machine.State

variable (s : State)

@[simp] theorem raise_eq_finish (c : ErrCode) (w : Word) : s.raise c w = s.finish false c w := rfl
@[simp] theorem succeed_eq_finish : s.succeed = s.finish false .ok 0 := rfl
@[simp] theorem succeedMatch_eq_finish : s.succeedMatch = s.finish true .ok 0 := rfl

/-! ### `finish` -/

@[simp] theorem finish_done (m : Bool) (c : ErrCode) (w : Word) : (s.finish m c w).done = true := rfl
@[simp] theorem finish_matched (m : Bool) (c : ErrCode) (w : Word) : (s.finish m c w).matched = m := rfl
@[simp] theorem finish_panic (m : Bool) (c : ErrCode) (w : Word) : (s.finish m c w).panic = s.panic := rfl
@[simp] theorem finish_err (m : Bool) (c : ErrCode) (w : Word) : (s.finish m c w).err = c := rfl
@[simp] theorem finish_errinfo (m : Bool) (c : ErrCode) (w : Word) : (s.finish m c w).errinfo = w := rfl
@[simp] theorem finish_addr (m : Bool) (c : ErrCode) (w : Word) : (s.finish m c w).addr = s.addr := rfl
@[simp] theorem finish_len (m : Bool) (c : ErrCode) (w : Word) : (s.finish m c w).len = s.len := rfl
@[simp] theorem finish_blkidx (m : Bool) (c : ErrCode) (w : Word) : (s.finish m c w).blkidx = s.blkidx := rfl
@[simp] theorem finish_credBase (m : Bool) (c : ErrCode) (w : Word) : (s.finish m c w).credBase = s.credBase := rfl
@[simp] theorem finish_credCount (m : Bool) (c : ErrCode) (w : Word) : (s.finish m c w).credCount = s.credCount := rfl
@[simp] theorem finish_credIdx (m : Bool) (c : ErrCode) (w : Word) : (s.finish m c w).credIdx = s.credIdx := rfl
@[simp] theorem finish_arenaPtr (m : Bool) (c : ErrCode) (w : Word) : (s.finish m c w).arenaPtr = s.arenaPtr := rfl
@[simp] theorem finish_resAddr (m : Bool) (c : ErrCode) (w : Word) : (s.finish m c w).resAddr = s.resAddr := rfl
@[simp] theorem finish_resLen (m : Bool) (c : ErrCode) (w : Word) : (s.finish m c w).resLen = s.resLen := rfl
@[simp] theorem finish_advHdr (m : Bool) (c : ErrCode) (w : Word) : (s.finish m c w).advHdr = s.advHdr := rfl
@[simp] theorem finish_tweak (m : Bool) (c : ErrCode) (w : Word) : (s.finish m c w).tweak = s.tweak := rfl
@[simp] theorem finish_padval (m : Bool) (c : ErrCode) (w : Word) : (s.finish m c w).padval = s.padval := rfl
@[simp] theorem finish_sircSalt (m : Bool) (c : ErrCode) (w : Word) : (s.finish m c w).sircSalt = s.sircSalt := rfl
@[simp] theorem finish_sircSaltLen (m : Bool) (c : ErrCode) (w : Word) : (s.finish m c w).sircSaltLen = s.sircSaltLen := rfl
@[simp] theorem finish_sircNonce (m : Bool) (c : ErrCode) (w : Word) : (s.finish m c w).sircNonce = s.sircNonce := rfl
@[simp] theorem finish_sircToken (m : Bool) (c : ErrCode) (w : Word) : (s.finish m c w).sircToken = s.sircToken := rfl
@[simp] theorem finish_keys (m : Bool) (c : ErrCode) (w : Word) : (s.finish m c w).keys = s.keys := rfl
@[simp] theorem finish_dmem (m : Bool) (c : ErrCode) (w : Word) : (s.finish m c w).dmem = s.dmem := rfl
@[simp] theorem finish_arena (m : Bool) (c : ErrCode) (w : Word) : (s.finish m c w).arena = s.arena := rfl
@[simp] theorem finish_draws (m : Bool) (c : ErrCode) (w : Word) : (s.finish m c w).draws = s.draws := rfl
@[simp] theorem finish_host (m : Bool) (c : ErrCode) (w : Word) : (s.finish m c w).host = s.host := rfl
@[simp] theorem finish_readData (m : Bool) (c : ErrCode) (w : Word) : (s.finish m c w).readData = s.readData := rfl

/-! ### `enterPanic` -/

@[simp] theorem enterPanic_done : s.enterPanic.done = false := rfl
@[simp] theorem enterPanic_matched : s.enterPanic.matched = false := rfl
@[simp] theorem enterPanic_panic : s.enterPanic.panic = true := rfl
@[simp] theorem enterPanic_err : s.enterPanic.err = .panic := rfl
@[simp] theorem enterPanic_errinfo : s.enterPanic.errinfo = 0 := rfl
@[simp] theorem enterPanic_addr : s.enterPanic.addr = s.addr := rfl
@[simp] theorem enterPanic_len : s.enterPanic.len = s.len := rfl
@[simp] theorem enterPanic_blkidx : s.enterPanic.blkidx = s.blkidx := rfl
@[simp] theorem enterPanic_credBase : s.enterPanic.credBase = s.credBase := rfl
@[simp] theorem enterPanic_credCount : s.enterPanic.credCount = s.credCount := rfl
@[simp] theorem enterPanic_credIdx : s.enterPanic.credIdx = s.credIdx := rfl
@[simp] theorem enterPanic_arenaPtr : s.enterPanic.arenaPtr = s.arenaPtr := rfl
@[simp] theorem enterPanic_resAddr : s.enterPanic.resAddr = s.resAddr := rfl
@[simp] theorem enterPanic_resLen : s.enterPanic.resLen = s.resLen := rfl
@[simp] theorem enterPanic_advHdr : s.enterPanic.advHdr = s.advHdr := rfl
@[simp] theorem enterPanic_tweak : s.enterPanic.tweak = s.tweak := rfl
@[simp] theorem enterPanic_padval : s.enterPanic.padval = s.padval := rfl
@[simp] theorem enterPanic_sircSalt : s.enterPanic.sircSalt = s.sircSalt := rfl
@[simp] theorem enterPanic_sircSaltLen : s.enterPanic.sircSaltLen = s.sircSaltLen := rfl
@[simp] theorem enterPanic_sircNonce : s.enterPanic.sircNonce = s.sircNonce := rfl
@[simp] theorem enterPanic_sircToken : s.enterPanic.sircToken = s.sircToken := rfl
@[simp] theorem enterPanic_keys : s.enterPanic.keys = s.keys := rfl
@[simp] theorem enterPanic_dmem : s.enterPanic.dmem = s.dmem := rfl
@[simp] theorem enterPanic_arena : s.enterPanic.arena = s.arena := rfl
@[simp] theorem enterPanic_draws : s.enterPanic.draws = s.draws := rfl
@[simp] theorem enterPanic_host : s.enterPanic.host = s.host := rfl
@[simp] theorem enterPanic_readData : s.enterPanic.readData = s.readData := rfl

/-! ### `nextDraw` -/

@[simp] theorem nextDraw_done : s.nextDraw.done = s.done := rfl
@[simp] theorem nextDraw_matched : s.nextDraw.matched = s.matched := rfl
@[simp] theorem nextDraw_panic : s.nextDraw.panic = s.panic := rfl
@[simp] theorem nextDraw_err : s.nextDraw.err = s.err := rfl
@[simp] theorem nextDraw_errinfo : s.nextDraw.errinfo = s.errinfo := rfl
@[simp] theorem nextDraw_addr : s.nextDraw.addr = s.addr := rfl
@[simp] theorem nextDraw_len : s.nextDraw.len = s.len := rfl
@[simp] theorem nextDraw_blkidx : s.nextDraw.blkidx = s.blkidx := rfl
@[simp] theorem nextDraw_credBase : s.nextDraw.credBase = s.credBase := rfl
@[simp] theorem nextDraw_credCount : s.nextDraw.credCount = s.credCount := rfl
@[simp] theorem nextDraw_credIdx : s.nextDraw.credIdx = s.credIdx := rfl
@[simp] theorem nextDraw_arenaPtr : s.nextDraw.arenaPtr = s.arenaPtr := rfl
@[simp] theorem nextDraw_resAddr : s.nextDraw.resAddr = s.resAddr := rfl
@[simp] theorem nextDraw_resLen : s.nextDraw.resLen = s.resLen := rfl
@[simp] theorem nextDraw_advHdr : s.nextDraw.advHdr = s.advHdr := rfl
@[simp] theorem nextDraw_tweak : s.nextDraw.tweak = s.tweak := rfl
@[simp] theorem nextDraw_padval : s.nextDraw.padval = s.padval := rfl
@[simp] theorem nextDraw_sircSalt : s.nextDraw.sircSalt = s.sircSalt := rfl
@[simp] theorem nextDraw_sircSaltLen : s.nextDraw.sircSaltLen = s.sircSaltLen := rfl
@[simp] theorem nextDraw_sircNonce : s.nextDraw.sircNonce = s.sircNonce := rfl
@[simp] theorem nextDraw_sircToken : s.nextDraw.sircToken = s.sircToken := rfl
@[simp] theorem nextDraw_keys : s.nextDraw.keys = s.keys := rfl
@[simp] theorem nextDraw_dmem : s.nextDraw.dmem = s.dmem := rfl
@[simp] theorem nextDraw_arena : s.nextDraw.arena = s.arena := rfl
@[simp] theorem nextDraw_draws : s.nextDraw.draws = s.draws + 1 := rfl
@[simp] theorem nextDraw_host : s.nextDraw.host = s.host := rfl
@[simp] theorem nextDraw_readData : s.nextDraw.readData = s.readData := rfl

/-! ### `setTweak` -/

@[simp] theorem setTweak_done (v : Block) : (s.setTweak v).done = s.done := rfl
@[simp] theorem setTweak_matched (v : Block) : (s.setTweak v).matched = s.matched := rfl
@[simp] theorem setTweak_panic (v : Block) : (s.setTweak v).panic = s.panic := rfl
@[simp] theorem setTweak_err (v : Block) : (s.setTweak v).err = s.err := rfl
@[simp] theorem setTweak_errinfo (v : Block) : (s.setTweak v).errinfo = s.errinfo := rfl
@[simp] theorem setTweak_addr (v : Block) : (s.setTweak v).addr = s.addr := rfl
@[simp] theorem setTweak_len (v : Block) : (s.setTweak v).len = s.len := rfl
@[simp] theorem setTweak_blkidx (v : Block) : (s.setTweak v).blkidx = s.blkidx := rfl
@[simp] theorem setTweak_credBase (v : Block) : (s.setTweak v).credBase = s.credBase := rfl
@[simp] theorem setTweak_credCount (v : Block) : (s.setTweak v).credCount = s.credCount := rfl
@[simp] theorem setTweak_credIdx (v : Block) : (s.setTweak v).credIdx = s.credIdx := rfl
@[simp] theorem setTweak_arenaPtr (v : Block) : (s.setTweak v).arenaPtr = s.arenaPtr := rfl
@[simp] theorem setTweak_resAddr (v : Block) : (s.setTweak v).resAddr = s.resAddr := rfl
@[simp] theorem setTweak_resLen (v : Block) : (s.setTweak v).resLen = s.resLen := rfl
@[simp] theorem setTweak_advHdr (v : Block) : (s.setTweak v).advHdr = s.advHdr := rfl
@[simp] theorem setTweak_tweak (v : Block) : (s.setTweak v).tweak = v := rfl
@[simp] theorem setTweak_padval (v : Block) : (s.setTweak v).padval = s.padval := rfl
@[simp] theorem setTweak_sircSalt (v : Block) : (s.setTweak v).sircSalt = s.sircSalt := rfl
@[simp] theorem setTweak_sircSaltLen (v : Block) : (s.setTweak v).sircSaltLen = s.sircSaltLen := rfl
@[simp] theorem setTweak_sircNonce (v : Block) : (s.setTweak v).sircNonce = s.sircNonce := rfl
@[simp] theorem setTweak_sircToken (v : Block) : (s.setTweak v).sircToken = s.sircToken := rfl
@[simp] theorem setTweak_keys (v : Block) : (s.setTweak v).keys = s.keys := rfl
@[simp] theorem setTweak_dmem (v : Block) : (s.setTweak v).dmem = s.dmem := rfl
@[simp] theorem setTweak_arena (v : Block) : (s.setTweak v).arena = s.arena := rfl
@[simp] theorem setTweak_draws (v : Block) : (s.setTweak v).draws = s.draws := rfl
@[simp] theorem setTweak_host (v : Block) : (s.setTweak v).host = s.host := rfl
@[simp] theorem setTweak_readData (v : Block) : (s.setTweak v).readData = s.readData := rfl

/-! ### `setKeys` -/

@[simp] theorem setKeys_done (k : LdtKey) : (s.setKeys k).done = s.done := rfl
@[simp] theorem setKeys_matched (k : LdtKey) : (s.setKeys k).matched = s.matched := rfl
@[simp] theorem setKeys_panic (k : LdtKey) : (s.setKeys k).panic = s.panic := rfl
@[simp] theorem setKeys_err (k : LdtKey) : (s.setKeys k).err = s.err := rfl
@[simp] theorem setKeys_errinfo (k : LdtKey) : (s.setKeys k).errinfo = s.errinfo := rfl
@[simp] theorem setKeys_addr (k : LdtKey) : (s.setKeys k).addr = s.addr := rfl
@[simp] theorem setKeys_len (k : LdtKey) : (s.setKeys k).len = s.len := rfl
@[simp] theorem setKeys_blkidx (k : LdtKey) : (s.setKeys k).blkidx = s.blkidx := rfl
@[simp] theorem setKeys_credBase (k : LdtKey) : (s.setKeys k).credBase = s.credBase := rfl
@[simp] theorem setKeys_credCount (k : LdtKey) : (s.setKeys k).credCount = s.credCount := rfl
@[simp] theorem setKeys_credIdx (k : LdtKey) : (s.setKeys k).credIdx = s.credIdx := rfl
@[simp] theorem setKeys_arenaPtr (k : LdtKey) : (s.setKeys k).arenaPtr = s.arenaPtr := rfl
@[simp] theorem setKeys_resAddr (k : LdtKey) : (s.setKeys k).resAddr = s.resAddr := rfl
@[simp] theorem setKeys_resLen (k : LdtKey) : (s.setKeys k).resLen = s.resLen := rfl
@[simp] theorem setKeys_advHdr (k : LdtKey) : (s.setKeys k).advHdr = s.advHdr := rfl
@[simp] theorem setKeys_tweak (k : LdtKey) : (s.setKeys k).tweak = s.tweak := rfl
@[simp] theorem setKeys_padval (k : LdtKey) : (s.setKeys k).padval = s.padval := rfl
@[simp] theorem setKeys_sircSalt (k : LdtKey) : (s.setKeys k).sircSalt = s.sircSalt := rfl
@[simp] theorem setKeys_sircSaltLen (k : LdtKey) : (s.setKeys k).sircSaltLen = s.sircSaltLen := rfl
@[simp] theorem setKeys_sircNonce (k : LdtKey) : (s.setKeys k).sircNonce = s.sircNonce := rfl
@[simp] theorem setKeys_sircToken (k : LdtKey) : (s.setKeys k).sircToken = s.sircToken := rfl
@[simp] theorem setKeys_keys (k : LdtKey) : (s.setKeys k).keys = some k := rfl
@[simp] theorem setKeys_dmem (k : LdtKey) : (s.setKeys k).dmem = s.dmem := rfl
@[simp] theorem setKeys_arena (k : LdtKey) : (s.setKeys k).arena = s.arena := rfl
@[simp] theorem setKeys_draws (k : LdtKey) : (s.setKeys k).draws = s.draws := rfl
@[simp] theorem setKeys_host (k : LdtKey) : (s.setKeys k).host = s.host := rfl
@[simp] theorem setKeys_readData (k : LdtKey) : (s.setKeys k).readData = s.readData := rfl

/-! ### `setCredIdx` -/

@[simp] theorem setCredIdx_done (v : Word) : (s.setCredIdx v).done = s.done := rfl
@[simp] theorem setCredIdx_matched (v : Word) : (s.setCredIdx v).matched = s.matched := rfl
@[simp] theorem setCredIdx_panic (v : Word) : (s.setCredIdx v).panic = s.panic := rfl
@[simp] theorem setCredIdx_err (v : Word) : (s.setCredIdx v).err = s.err := rfl
@[simp] theorem setCredIdx_errinfo (v : Word) : (s.setCredIdx v).errinfo = s.errinfo := rfl
@[simp] theorem setCredIdx_addr (v : Word) : (s.setCredIdx v).addr = s.addr := rfl
@[simp] theorem setCredIdx_len (v : Word) : (s.setCredIdx v).len = s.len := rfl
@[simp] theorem setCredIdx_blkidx (v : Word) : (s.setCredIdx v).blkidx = s.blkidx := rfl
@[simp] theorem setCredIdx_credBase (v : Word) : (s.setCredIdx v).credBase = s.credBase := rfl
@[simp] theorem setCredIdx_credCount (v : Word) : (s.setCredIdx v).credCount = s.credCount := rfl
@[simp] theorem setCredIdx_credIdx (v : Word) : (s.setCredIdx v).credIdx = v := rfl
@[simp] theorem setCredIdx_arenaPtr (v : Word) : (s.setCredIdx v).arenaPtr = s.arenaPtr := rfl
@[simp] theorem setCredIdx_resAddr (v : Word) : (s.setCredIdx v).resAddr = s.resAddr := rfl
@[simp] theorem setCredIdx_resLen (v : Word) : (s.setCredIdx v).resLen = s.resLen := rfl
@[simp] theorem setCredIdx_advHdr (v : Word) : (s.setCredIdx v).advHdr = s.advHdr := rfl
@[simp] theorem setCredIdx_tweak (v : Word) : (s.setCredIdx v).tweak = s.tweak := rfl
@[simp] theorem setCredIdx_padval (v : Word) : (s.setCredIdx v).padval = s.padval := rfl
@[simp] theorem setCredIdx_sircSalt (v : Word) : (s.setCredIdx v).sircSalt = s.sircSalt := rfl
@[simp] theorem setCredIdx_sircSaltLen (v : Word) : (s.setCredIdx v).sircSaltLen = s.sircSaltLen := rfl
@[simp] theorem setCredIdx_sircNonce (v : Word) : (s.setCredIdx v).sircNonce = s.sircNonce := rfl
@[simp] theorem setCredIdx_sircToken (v : Word) : (s.setCredIdx v).sircToken = s.sircToken := rfl
@[simp] theorem setCredIdx_keys (v : Word) : (s.setCredIdx v).keys = s.keys := rfl
@[simp] theorem setCredIdx_dmem (v : Word) : (s.setCredIdx v).dmem = s.dmem := rfl
@[simp] theorem setCredIdx_arena (v : Word) : (s.setCredIdx v).arena = s.arena := rfl
@[simp] theorem setCredIdx_draws (v : Word) : (s.setCredIdx v).draws = s.draws := rfl
@[simp] theorem setCredIdx_host (v : Word) : (s.setCredIdx v).host = s.host := rfl
@[simp] theorem setCredIdx_readData (v : Word) : (s.setCredIdx v).readData = s.readData := rfl

/-! ### `setSirc` -/

@[simp] theorem setSirc_done (a : Block) (l : Word) (n : Nonce) (k : Block) : (s.setSirc a l n k).done = s.done := rfl
@[simp] theorem setSirc_matched (a : Block) (l : Word) (n : Nonce) (k : Block) : (s.setSirc a l n k).matched = s.matched := rfl
@[simp] theorem setSirc_panic (a : Block) (l : Word) (n : Nonce) (k : Block) : (s.setSirc a l n k).panic = s.panic := rfl
@[simp] theorem setSirc_err (a : Block) (l : Word) (n : Nonce) (k : Block) : (s.setSirc a l n k).err = s.err := rfl
@[simp] theorem setSirc_errinfo (a : Block) (l : Word) (n : Nonce) (k : Block) : (s.setSirc a l n k).errinfo = s.errinfo := rfl
@[simp] theorem setSirc_addr (a : Block) (l : Word) (n : Nonce) (k : Block) : (s.setSirc a l n k).addr = s.addr := rfl
@[simp] theorem setSirc_len (a : Block) (l : Word) (n : Nonce) (k : Block) : (s.setSirc a l n k).len = s.len := rfl
@[simp] theorem setSirc_blkidx (a : Block) (l : Word) (n : Nonce) (k : Block) : (s.setSirc a l n k).blkidx = s.blkidx := rfl
@[simp] theorem setSirc_credBase (a : Block) (l : Word) (n : Nonce) (k : Block) : (s.setSirc a l n k).credBase = s.credBase := rfl
@[simp] theorem setSirc_credCount (a : Block) (l : Word) (n : Nonce) (k : Block) : (s.setSirc a l n k).credCount = s.credCount := rfl
@[simp] theorem setSirc_credIdx (a : Block) (l : Word) (n : Nonce) (k : Block) : (s.setSirc a l n k).credIdx = s.credIdx := rfl
@[simp] theorem setSirc_arenaPtr (a : Block) (l : Word) (n : Nonce) (k : Block) : (s.setSirc a l n k).arenaPtr = s.arenaPtr := rfl
@[simp] theorem setSirc_resAddr (a : Block) (l : Word) (n : Nonce) (k : Block) : (s.setSirc a l n k).resAddr = s.resAddr := rfl
@[simp] theorem setSirc_resLen (a : Block) (l : Word) (n : Nonce) (k : Block) : (s.setSirc a l n k).resLen = s.resLen := rfl
@[simp] theorem setSirc_advHdr (a : Block) (l : Word) (n : Nonce) (k : Block) : (s.setSirc a l n k).advHdr = s.advHdr := rfl
@[simp] theorem setSirc_tweak (a : Block) (l : Word) (n : Nonce) (k : Block) : (s.setSirc a l n k).tweak = s.tweak := rfl
@[simp] theorem setSirc_padval (a : Block) (l : Word) (n : Nonce) (k : Block) : (s.setSirc a l n k).padval = s.padval := rfl
@[simp] theorem setSirc_sircSalt (a : Block) (l : Word) (n : Nonce) (k : Block) : (s.setSirc a l n k).sircSalt = a := rfl
@[simp] theorem setSirc_sircSaltLen (a : Block) (l : Word) (n : Nonce) (k : Block) : (s.setSirc a l n k).sircSaltLen = l := rfl
@[simp] theorem setSirc_sircNonce (a : Block) (l : Word) (n : Nonce) (k : Block) : (s.setSirc a l n k).sircNonce = n := rfl
@[simp] theorem setSirc_sircToken (a : Block) (l : Word) (n : Nonce) (k : Block) : (s.setSirc a l n k).sircToken = k := rfl
@[simp] theorem setSirc_keys (a : Block) (l : Word) (n : Nonce) (k : Block) : (s.setSirc a l n k).keys = s.keys := rfl
@[simp] theorem setSirc_dmem (a : Block) (l : Word) (n : Nonce) (k : Block) : (s.setSirc a l n k).dmem = s.dmem := rfl
@[simp] theorem setSirc_arena (a : Block) (l : Word) (n : Nonce) (k : Block) : (s.setSirc a l n k).arena = s.arena := rfl
@[simp] theorem setSirc_draws (a : Block) (l : Word) (n : Nonce) (k : Block) : (s.setSirc a l n k).draws = s.draws := rfl
@[simp] theorem setSirc_host (a : Block) (l : Word) (n : Nonce) (k : Block) : (s.setSirc a l n k).host = s.host := rfl
@[simp] theorem setSirc_readData (a : Block) (l : Word) (n : Nonce) (k : Block) : (s.setSirc a l n k).readData = s.readData := rfl

/-! ### `setArenaPtr` -/

@[simp] theorem setArenaPtr_done (v : Word) : (s.setArenaPtr v).done = s.done := rfl
@[simp] theorem setArenaPtr_matched (v : Word) : (s.setArenaPtr v).matched = s.matched := rfl
@[simp] theorem setArenaPtr_panic (v : Word) : (s.setArenaPtr v).panic = s.panic := rfl
@[simp] theorem setArenaPtr_err (v : Word) : (s.setArenaPtr v).err = s.err := rfl
@[simp] theorem setArenaPtr_errinfo (v : Word) : (s.setArenaPtr v).errinfo = s.errinfo := rfl
@[simp] theorem setArenaPtr_addr (v : Word) : (s.setArenaPtr v).addr = s.addr := rfl
@[simp] theorem setArenaPtr_len (v : Word) : (s.setArenaPtr v).len = s.len := rfl
@[simp] theorem setArenaPtr_blkidx (v : Word) : (s.setArenaPtr v).blkidx = s.blkidx := rfl
@[simp] theorem setArenaPtr_credBase (v : Word) : (s.setArenaPtr v).credBase = s.credBase := rfl
@[simp] theorem setArenaPtr_credCount (v : Word) : (s.setArenaPtr v).credCount = s.credCount := rfl
@[simp] theorem setArenaPtr_credIdx (v : Word) : (s.setArenaPtr v).credIdx = s.credIdx := rfl
@[simp] theorem setArenaPtr_arenaPtr (v : Word) : (s.setArenaPtr v).arenaPtr = v := rfl
@[simp] theorem setArenaPtr_resAddr (v : Word) : (s.setArenaPtr v).resAddr = s.resAddr := rfl
@[simp] theorem setArenaPtr_resLen (v : Word) : (s.setArenaPtr v).resLen = s.resLen := rfl
@[simp] theorem setArenaPtr_advHdr (v : Word) : (s.setArenaPtr v).advHdr = s.advHdr := rfl
@[simp] theorem setArenaPtr_tweak (v : Word) : (s.setArenaPtr v).tweak = s.tweak := rfl
@[simp] theorem setArenaPtr_padval (v : Word) : (s.setArenaPtr v).padval = s.padval := rfl
@[simp] theorem setArenaPtr_sircSalt (v : Word) : (s.setArenaPtr v).sircSalt = s.sircSalt := rfl
@[simp] theorem setArenaPtr_sircSaltLen (v : Word) : (s.setArenaPtr v).sircSaltLen = s.sircSaltLen := rfl
@[simp] theorem setArenaPtr_sircNonce (v : Word) : (s.setArenaPtr v).sircNonce = s.sircNonce := rfl
@[simp] theorem setArenaPtr_sircToken (v : Word) : (s.setArenaPtr v).sircToken = s.sircToken := rfl
@[simp] theorem setArenaPtr_keys (v : Word) : (s.setArenaPtr v).keys = s.keys := rfl
@[simp] theorem setArenaPtr_dmem (v : Word) : (s.setArenaPtr v).dmem = s.dmem := rfl
@[simp] theorem setArenaPtr_arena (v : Word) : (s.setArenaPtr v).arena = s.arena := rfl
@[simp] theorem setArenaPtr_draws (v : Word) : (s.setArenaPtr v).draws = s.draws := rfl
@[simp] theorem setArenaPtr_host (v : Word) : (s.setArenaPtr v).host = s.host := rfl
@[simp] theorem setArenaPtr_readData (v : Word) : (s.setArenaPtr v).readData = s.readData := rfl

/-! ### `setResult` -/

@[simp] theorem setResult_done (a n : Word) : (s.setResult a n).done = s.done := rfl
@[simp] theorem setResult_matched (a n : Word) : (s.setResult a n).matched = s.matched := rfl
@[simp] theorem setResult_panic (a n : Word) : (s.setResult a n).panic = s.panic := rfl
@[simp] theorem setResult_err (a n : Word) : (s.setResult a n).err = s.err := rfl
@[simp] theorem setResult_errinfo (a n : Word) : (s.setResult a n).errinfo = s.errinfo := rfl
@[simp] theorem setResult_addr (a n : Word) : (s.setResult a n).addr = s.addr := rfl
@[simp] theorem setResult_len (a n : Word) : (s.setResult a n).len = s.len := rfl
@[simp] theorem setResult_blkidx (a n : Word) : (s.setResult a n).blkidx = s.blkidx := rfl
@[simp] theorem setResult_credBase (a n : Word) : (s.setResult a n).credBase = s.credBase := rfl
@[simp] theorem setResult_credCount (a n : Word) : (s.setResult a n).credCount = s.credCount := rfl
@[simp] theorem setResult_credIdx (a n : Word) : (s.setResult a n).credIdx = s.credIdx := rfl
@[simp] theorem setResult_arenaPtr (a n : Word) : (s.setResult a n).arenaPtr = s.arenaPtr := rfl
@[simp] theorem setResult_resAddr (a n : Word) : (s.setResult a n).resAddr = a := rfl
@[simp] theorem setResult_resLen (a n : Word) : (s.setResult a n).resLen = n := rfl
@[simp] theorem setResult_advHdr (a n : Word) : (s.setResult a n).advHdr = s.advHdr := rfl
@[simp] theorem setResult_tweak (a n : Word) : (s.setResult a n).tweak = s.tweak := rfl
@[simp] theorem setResult_padval (a n : Word) : (s.setResult a n).padval = s.padval := rfl
@[simp] theorem setResult_sircSalt (a n : Word) : (s.setResult a n).sircSalt = s.sircSalt := rfl
@[simp] theorem setResult_sircSaltLen (a n : Word) : (s.setResult a n).sircSaltLen = s.sircSaltLen := rfl
@[simp] theorem setResult_sircNonce (a n : Word) : (s.setResult a n).sircNonce = s.sircNonce := rfl
@[simp] theorem setResult_sircToken (a n : Word) : (s.setResult a n).sircToken = s.sircToken := rfl
@[simp] theorem setResult_keys (a n : Word) : (s.setResult a n).keys = s.keys := rfl
@[simp] theorem setResult_dmem (a n : Word) : (s.setResult a n).dmem = s.dmem := rfl
@[simp] theorem setResult_arena (a n : Word) : (s.setResult a n).arena = s.arena := rfl
@[simp] theorem setResult_draws (a n : Word) : (s.setResult a n).draws = s.draws := rfl
@[simp] theorem setResult_host (a n : Word) : (s.setResult a n).host = s.host := rfl
@[simp] theorem setResult_readData (a n : Word) : (s.setResult a n).readData = s.readData := rfl

/-! ### `writeDmem` -/

@[simp] theorem writeDmem_done (a : Nat) (bs : Bytes) : (s.writeDmem a bs).done = s.done := rfl
@[simp] theorem writeDmem_matched (a : Nat) (bs : Bytes) : (s.writeDmem a bs).matched = s.matched := rfl
@[simp] theorem writeDmem_panic (a : Nat) (bs : Bytes) : (s.writeDmem a bs).panic = s.panic := rfl
@[simp] theorem writeDmem_err (a : Nat) (bs : Bytes) : (s.writeDmem a bs).err = s.err := rfl
@[simp] theorem writeDmem_errinfo (a : Nat) (bs : Bytes) : (s.writeDmem a bs).errinfo = s.errinfo := rfl
@[simp] theorem writeDmem_addr (a : Nat) (bs : Bytes) : (s.writeDmem a bs).addr = s.addr := rfl
@[simp] theorem writeDmem_len (a : Nat) (bs : Bytes) : (s.writeDmem a bs).len = s.len := rfl
@[simp] theorem writeDmem_blkidx (a : Nat) (bs : Bytes) : (s.writeDmem a bs).blkidx = s.blkidx := rfl
@[simp] theorem writeDmem_credBase (a : Nat) (bs : Bytes) : (s.writeDmem a bs).credBase = s.credBase := rfl
@[simp] theorem writeDmem_credCount (a : Nat) (bs : Bytes) : (s.writeDmem a bs).credCount = s.credCount := rfl
@[simp] theorem writeDmem_credIdx (a : Nat) (bs : Bytes) : (s.writeDmem a bs).credIdx = s.credIdx := rfl
@[simp] theorem writeDmem_arenaPtr (a : Nat) (bs : Bytes) : (s.writeDmem a bs).arenaPtr = s.arenaPtr := rfl
@[simp] theorem writeDmem_resAddr (a : Nat) (bs : Bytes) : (s.writeDmem a bs).resAddr = s.resAddr := rfl
@[simp] theorem writeDmem_resLen (a : Nat) (bs : Bytes) : (s.writeDmem a bs).resLen = s.resLen := rfl
@[simp] theorem writeDmem_advHdr (a : Nat) (bs : Bytes) : (s.writeDmem a bs).advHdr = s.advHdr := rfl
@[simp] theorem writeDmem_tweak (a : Nat) (bs : Bytes) : (s.writeDmem a bs).tweak = s.tweak := rfl
@[simp] theorem writeDmem_padval (a : Nat) (bs : Bytes) : (s.writeDmem a bs).padval = s.padval := rfl
@[simp] theorem writeDmem_sircSalt (a : Nat) (bs : Bytes) : (s.writeDmem a bs).sircSalt = s.sircSalt := rfl
@[simp] theorem writeDmem_sircSaltLen (a : Nat) (bs : Bytes) : (s.writeDmem a bs).sircSaltLen = s.sircSaltLen := rfl
@[simp] theorem writeDmem_sircNonce (a : Nat) (bs : Bytes) : (s.writeDmem a bs).sircNonce = s.sircNonce := rfl
@[simp] theorem writeDmem_sircToken (a : Nat) (bs : Bytes) : (s.writeDmem a bs).sircToken = s.sircToken := rfl
@[simp] theorem writeDmem_keys (a : Nat) (bs : Bytes) : (s.writeDmem a bs).keys = s.keys := rfl
@[simp] theorem writeDmem_dmem (a : Nat) (bs : Bytes) : (s.writeDmem a bs).dmem = Memory.writeBytes s.dmem a bs := rfl
@[simp] theorem writeDmem_arena (a : Nat) (bs : Bytes) : (s.writeDmem a bs).arena = s.arena := rfl
@[simp] theorem writeDmem_draws (a : Nat) (bs : Bytes) : (s.writeDmem a bs).draws = s.draws := rfl
@[simp] theorem writeDmem_host (a : Nat) (bs : Bytes) : (s.writeDmem a bs).host = s.host := rfl
@[simp] theorem writeDmem_readData (a : Nat) (bs : Bytes) : (s.writeDmem a bs).readData = s.readData := rfl

/-! ### `writeArena` -/

@[simp] theorem writeArena_done (a : Nat) (bs : Bytes) : (s.writeArena a bs).done = s.done := rfl
@[simp] theorem writeArena_matched (a : Nat) (bs : Bytes) : (s.writeArena a bs).matched = s.matched := rfl
@[simp] theorem writeArena_panic (a : Nat) (bs : Bytes) : (s.writeArena a bs).panic = s.panic := rfl
@[simp] theorem writeArena_err (a : Nat) (bs : Bytes) : (s.writeArena a bs).err = s.err := rfl
@[simp] theorem writeArena_errinfo (a : Nat) (bs : Bytes) : (s.writeArena a bs).errinfo = s.errinfo := rfl
@[simp] theorem writeArena_addr (a : Nat) (bs : Bytes) : (s.writeArena a bs).addr = s.addr := rfl
@[simp] theorem writeArena_len (a : Nat) (bs : Bytes) : (s.writeArena a bs).len = s.len := rfl
@[simp] theorem writeArena_blkidx (a : Nat) (bs : Bytes) : (s.writeArena a bs).blkidx = s.blkidx := rfl
@[simp] theorem writeArena_credBase (a : Nat) (bs : Bytes) : (s.writeArena a bs).credBase = s.credBase := rfl
@[simp] theorem writeArena_credCount (a : Nat) (bs : Bytes) : (s.writeArena a bs).credCount = s.credCount := rfl
@[simp] theorem writeArena_credIdx (a : Nat) (bs : Bytes) : (s.writeArena a bs).credIdx = s.credIdx := rfl
@[simp] theorem writeArena_arenaPtr (a : Nat) (bs : Bytes) : (s.writeArena a bs).arenaPtr = s.arenaPtr := rfl
@[simp] theorem writeArena_resAddr (a : Nat) (bs : Bytes) : (s.writeArena a bs).resAddr = s.resAddr := rfl
@[simp] theorem writeArena_resLen (a : Nat) (bs : Bytes) : (s.writeArena a bs).resLen = s.resLen := rfl
@[simp] theorem writeArena_advHdr (a : Nat) (bs : Bytes) : (s.writeArena a bs).advHdr = s.advHdr := rfl
@[simp] theorem writeArena_tweak (a : Nat) (bs : Bytes) : (s.writeArena a bs).tweak = s.tweak := rfl
@[simp] theorem writeArena_padval (a : Nat) (bs : Bytes) : (s.writeArena a bs).padval = s.padval := rfl
@[simp] theorem writeArena_sircSalt (a : Nat) (bs : Bytes) : (s.writeArena a bs).sircSalt = s.sircSalt := rfl
@[simp] theorem writeArena_sircSaltLen (a : Nat) (bs : Bytes) : (s.writeArena a bs).sircSaltLen = s.sircSaltLen := rfl
@[simp] theorem writeArena_sircNonce (a : Nat) (bs : Bytes) : (s.writeArena a bs).sircNonce = s.sircNonce := rfl
@[simp] theorem writeArena_sircToken (a : Nat) (bs : Bytes) : (s.writeArena a bs).sircToken = s.sircToken := rfl
@[simp] theorem writeArena_keys (a : Nat) (bs : Bytes) : (s.writeArena a bs).keys = s.keys := rfl
@[simp] theorem writeArena_dmem (a : Nat) (bs : Bytes) : (s.writeArena a bs).dmem = s.dmem := rfl
@[simp] theorem writeArena_arena (a : Nat) (bs : Bytes) : (s.writeArena a bs).arena = Memory.writeBytes s.arena a bs := rfl
@[simp] theorem writeArena_draws (a : Nat) (bs : Bytes) : (s.writeArena a bs).draws = s.draws := rfl
@[simp] theorem writeArena_host (a : Nat) (bs : Bytes) : (s.writeArena a bs).host = s.host := rfl
@[simp] theorem writeArena_readData (a : Nat) (bs : Bytes) : (s.writeArena a bs).readData = s.readData := rfl

/-! ### `afterReset`: the reset value of every field but the model's own -/

@[simp] theorem afterReset_done : s.afterReset.done = State.reset.done := rfl
@[simp] theorem afterReset_matched : s.afterReset.matched = State.reset.matched := rfl
@[simp] theorem afterReset_panic : s.afterReset.panic = State.reset.panic := rfl
@[simp] theorem afterReset_err : s.afterReset.err = State.reset.err := rfl
@[simp] theorem afterReset_errinfo : s.afterReset.errinfo = State.reset.errinfo := rfl
@[simp] theorem afterReset_addr : s.afterReset.addr = State.reset.addr := rfl
@[simp] theorem afterReset_len : s.afterReset.len = State.reset.len := rfl
@[simp] theorem afterReset_blkidx : s.afterReset.blkidx = State.reset.blkidx := rfl
@[simp] theorem afterReset_credBase : s.afterReset.credBase = State.reset.credBase := rfl
@[simp] theorem afterReset_credCount : s.afterReset.credCount = State.reset.credCount := rfl
@[simp] theorem afterReset_credIdx : s.afterReset.credIdx = State.reset.credIdx := rfl
@[simp] theorem afterReset_arenaPtr : s.afterReset.arenaPtr = State.reset.arenaPtr := rfl
@[simp] theorem afterReset_resAddr : s.afterReset.resAddr = State.reset.resAddr := rfl
@[simp] theorem afterReset_resLen : s.afterReset.resLen = State.reset.resLen := rfl
@[simp] theorem afterReset_advHdr : s.afterReset.advHdr = State.reset.advHdr := rfl
@[simp] theorem afterReset_tweak : s.afterReset.tweak = State.reset.tweak := rfl
@[simp] theorem afterReset_padval : s.afterReset.padval = State.reset.padval := rfl
@[simp] theorem afterReset_sircSalt : s.afterReset.sircSalt = State.reset.sircSalt := rfl
@[simp] theorem afterReset_sircSaltLen : s.afterReset.sircSaltLen = State.reset.sircSaltLen := rfl
@[simp] theorem afterReset_sircNonce : s.afterReset.sircNonce = State.reset.sircNonce := rfl
@[simp] theorem afterReset_sircToken : s.afterReset.sircToken = State.reset.sircToken := rfl
@[simp] theorem afterReset_keys : s.afterReset.keys = State.reset.keys := rfl
@[simp] theorem afterReset_dmem : s.afterReset.dmem = State.reset.dmem := rfl
@[simp] theorem afterReset_arena : s.afterReset.arena = State.reset.arena := rfl
@[simp] theorem afterReset_draws : s.afterReset.draws = s.draws := rfl
@[simp] theorem afterReset_host : s.afterReset.host = s.host := rfl
@[simp] theorem afterReset_readData : s.afterReset.readData = s.readData := rfl

end Sys2Proof.Machine.State
end

