-- ==== Sys2Proof/Laws/Xts.lean ====
section
/-! SUPPORT. Tweak arithmetic, blocks of a data unit, and the lengths of what the ciphers give. -/

namespace Sys2Proof.Machine

/-! ### Advancing -/

@[simp] theorem advance_zero (g : Byte) (t : Block) : advance g t 0 = t := rfl

theorem advance_succ (g : Byte) (t : Block) (k : Nat) : advance g t (k + 1) = double g (advance g t k) :=
  rfl

theorem advance_eq_iterate (g : Byte) (t : Block) (k : Nat) : advance g t k = (double g)^[k] t := by
  induction k with
  | zero => rfl
  | succ k ih => rw [advance_succ, ih, Function.iterate_succ_apply']

/-! ### One block -/

@[simp] theorem aesDec_aesEnc (E : Engine) (k : Bytes) (b : Block) : E.aesDec k (E.aesEnc k b) = b := by
  simp [Engine.aesDec, Engine.aesEnc]

@[simp] theorem aesEnc_aesDec (E : Engine) (k : Bytes) (b : Block) : E.aesEnc k (E.aesDec k b) = b := by
  simp [Engine.aesDec, Engine.aesEnc]

@[simp] theorem blkDec_blkEnc (E : Engine) (k : Bytes) (t b : Block) :
    blkDec E k t (blkEnc E k t b) = b := by
  simp [blkDec, blkEnc]

@[simp] theorem blkEnc_blkDec (E : Engine) (k : Bytes) (t b : Block) :
    blkEnc E k t (blkDec E k t b) = b := by
  simp [blkDec, blkEnc]

/-! ### Concatenations of blocks -/

theorem length_flatMap_blockBytes (f : Nat → Block) (n : Nat) :
    ((List.range n).flatMap fun j => blockBytes (f j)).length = 16 * n := by
  induction n with
  | zero => rfl
  | succ n ih => simp [List.range_succ, List.flatMap_append, ih]; omega

/-- Block j of a byte string that begins with n blocks, or with n blocks and more. -/
theorem unitBlock_flatMap_append (f : Nat → Block) (n j : Nat) (rest : Bytes) (h : j < n) :
    unitBlock (((List.range n).flatMap fun j => blockBytes (f j)) ++ rest) j = f j := by
  induction n generalizing rest with
  | zero => omega
  | succ n ih =>
    have hl := length_flatMap_blockBytes f n
    rw [List.range_succ, List.flatMap_append, List.append_assoc]
    rcases Nat.lt_or_eq_of_le (Nat.le_of_lt_succ h) with h' | rfl
    · exact ih _ h'
    · have e : 16 * j + 16 - 16 * j = 16 := by omega
      rw [unitBlock, slice, ← hl, List.drop_left, hl, e]
      simp

theorem length_encBlocks (E : Engine) (x : XtsKey) (t : Block) (u : Bytes) (n : Nat) :
    (encBlocks E x t u n).length = 16 * n := length_flatMap_blockBytes _ n

theorem length_decBlocks (E : Engine) (x : XtsKey) (t : Block) (u : Bytes) (n : Nat) :
    (decBlocks E x t u n).length = 16 * n := length_flatMap_blockBytes _ n

theorem length_encSteal (E : Engine) (x : XtsKey) (t : Block) (u : Bytes) (m b : Nat) (hb : b ≤ 16) :
    (encSteal E x t u m b).length = 16 + b := by simp [encSteal, hb]

theorem length_decSteal (E : Engine) (x : XtsKey) (t : Block) (u : Bytes) (m b : Nat) (hb : b ≤ 16) :
    (decSteal E x t u m b).length = 16 + b := by simp [decSteal, hb]

/-- A data unit keeps its length. -/
theorem length_xtsEncUnit (E : Engine) (x : XtsKey) (t : Block) (u : Bytes) (h : 16 ≤ u.length) :
    (xtsEncUnit E x t u).length = u.length := by
  simp only [xtsEncUnit]
  split
  · rw [length_encBlocks]
    omega
  · rw [List.length_append, length_encBlocks, length_encSteal _ _ _ _ _ _ (by omega)]
    omega

theorem length_xtsDecUnit (E : Engine) (x : XtsKey) (t : Block) (u : Bytes) (h : 16 ≤ u.length) :
    (xtsDecUnit E x t u).length = u.length := by
  simp only [xtsDecUnit]
  split
  · rw [length_decBlocks]
    omega
  · rw [List.length_append, length_decBlocks, length_decSteal _ _ _ _ _ _ (by omega)]
    omega

/-! ### LDT -/

@[simp] theorem xtsDecBlock_xtsEncBlock (E : Engine) (x : XtsKey) (t b : Block) :
    xtsDecBlock E x t (xtsEncBlock E x t b) = b := by simp [xtsDecBlock, xtsEncBlock]

@[simp] theorem xtsEncBlock_xtsDecBlock (E : Engine) (x : XtsKey) (t b : Block) :
    xtsEncBlock E x t (xtsDecBlock E x t b) = b := by simp [xtsDecBlock, xtsEncBlock]

@[simp] theorem length_tailOp (E : Engine) (k : XtsKey) (t : Block) (x : Bytes) (h : x.length ≤ 16) :
    (tailOp E k t x).length = x.length := by simp [tailOp, h]

theorem length_ldtEncrypt (E : Engine) (k : LdtKey) (p : Padder) (v : Block) (msg : Bytes)
    (h1 : 16 ≤ msg.length) (h2 : msg.length ≤ 32) : (ldtEncrypt E k p v msg).length = msg.length := by
  simp only [ldtEncrypt, List.length_append, length_blockBytes]
  rw [length_tailOp _ _ _ _ (by simp; omega), List.length_drop]
  omega

theorem length_ldtDecrypt (E : Engine) (k : LdtKey) (p : Padder) (v : Block) (c : Bytes)
    (h1 : 16 ≤ c.length) (h2 : c.length ≤ 32) : (ldtDecrypt E k p v c).length = c.length := by
  simp only [ldtDecrypt, List.length_append, length_blockBytes]
  rw [length_tailOp _ _ _ _ (by simp; omega), List.length_drop]
  omega

/-- Byte i of a mixed block. -/
theorem byteAt_mixBlock (sigma : Equiv.Perm (Fin 16)) (b : Block) (i : Fin 16) :
    byteAt (mixBlock sigma b) i = byteAt b (sigma i) := by
  rw [mixBlock, byteAt_blockOfBytes _ _ (by simp)]
  simp

end Sys2Proof.Machine
end

