-- ==== Sys2Proof/Laws/Ops.lean ====
section
/-! SUPPORT. One lemma per shared operation: all it can do. -/

namespace Sys2Proof.Machine

@[simp] theorem outOfRange_iff (E : Engine) (b : Word) (n : Nat) :
    outOfRange E b n = true ↔ E.dmemBytes < b.toNat + n := by simp [outOfRange]

@[simp] theorem outOfRange_eq_false (E : Engine) (b : Word) (n : Nat) :
    outOfRange E b n = false ↔ b.toNat + n ≤ E.dmemBytes := by simp [outOfRange]

/-- PAD: it panics, or the range test fails, or TWEAK takes the padded tail. -/
theorem pad_cases (E : Engine) (p : Padder) (s : State) :
    (15 < s.len.toNat ∧ pad E p s = s.enterPanic) ∨
    (s.len.toNat ≤ 15 ∧ E.dmemBytes < s.addr.toNat + s.len.toNat ∧ pad E p s = s.raiseRange E s.addr) ∨
    (s.len.toNat ≤ 15 ∧ s.addr.toNat + s.len.toNat ≤ E.dmemBytes ∧
      pad E p s = (s.nextDraw.setTweak (padTweak p s.padval s.buffer)).succeed) := by
  unfold pad
  split
  · exact .inl ⟨by assumption, rfl⟩
  · split
    · rename_i h1 h2
      exact .inr (.inl ⟨by omega, by simpa using h2, rfl⟩)
    · rename_i h1 h2
      exact .inr (.inr ⟨by omega, by simpa using h2, rfl⟩)

/-- KEY_LOAD: a test fails, or both slots take the blob. -/
theorem keyLoad_cases (E : Engine) (s : State) :
    (s.len.toNat ≠ E.aesKeySize.ldtKeyBytes ∧ keyLoad E s = s.raise .badKeyLength s.len) ∨
    (s.len.toNat = E.aesKeySize.ldtKeyBytes ∧ E.dmemBytes < s.addr.toNat + s.len.toNat ∧
      keyLoad E s = s.raiseRange E s.addr) ∨
    (s.len.toNat = E.aesKeySize.ldtKeyBytes ∧ s.addr.toNat + s.len.toNat ≤ E.dmemBytes ∧
      keyLoad E s = (s.nextDraw.setKeys (ldtKeyOf E s.buffer)).succeed) := by
  unfold keyLoad
  split
  · exact .inl ⟨by assumption, rfl⟩
  · rename_i h
    have h' : s.len.toNat = E.aesKeySize.ldtKeyBytes := by omega
    split
    · rename_i h2
      exact .inr (.inl ⟨h', by simpa [h'] using h2, rfl⟩)
    · rename_i h2
      exact .inr (.inr ⟨h', by simpa [h'] using h2, rfl⟩)

/-- XTS_ENC and XTS_DEC: a test fails, in the order of the tests, or the buffer is replaced. -/
theorem xtsCommand_cases (E : Engine) (f : XtsKey → Block → Bytes → Bytes) (k : KeySlot) (s : State) :
    (s.keys = none ∧ xtsCommand E f k s = s.raise .keyNotLoaded 0) ∨
    ∃ ks, s.keys = some ks ∧
      ((s.len.toNat < 16 ∧ xtsCommand E f k s = s.raise .dataTooShort s.len) ∨
       (2 ^ 24 < s.len.toNat ∧ xtsCommand E f k s = s.raise .dataTooLong s.len) ∨
       (16 ≤ s.len.toNat ∧ s.len.toNat ≤ 2 ^ 24 ∧ E.dmemBytes < s.addr.toNat + s.len.toNat ∧
        xtsCommand E f k s = s.raiseRange E s.addr) ∨
       (16 ≤ s.len.toNat ∧ s.len.toNat ≤ 2 ^ 24 ∧ s.addr.toNat + s.len.toNat ≤ E.dmemBytes ∧
        xtsCommand E f k s =
          (s.nextDraw.writeDmem s.addr.toNat (f (ks.select k) s.tweak s.buffer)).succeed)) := by
  unfold xtsCommand
  split
  · exact .inl ⟨by assumption, rfl⟩
  · rename_i ks hk
    refine .inr ⟨ks, hk, ?_⟩
    split
    · exact .inl ⟨by assumption, rfl⟩
    · split
      · exact .inr (.inl ⟨by assumption, rfl⟩)
      · split
        · rename_i h1 h2 h3
          exact .inr (.inr (.inl ⟨by omega, by omega, by simpa using h3, rfl⟩))
        · rename_i h1 h2 h3
          exact .inr (.inr (.inr ⟨by omega, by omega, by simpa using h3, rfl⟩))

/-- LDT_ENC and LDT_DEC: a test fails, in the order of the tests, or the buffer is replaced. -/
theorem ldtCommand_cases (E : Engine) (f : LdtKey → Padder → Block → Bytes → Bytes) (p : Padder)
    (s : State) :
    (s.keys = none ∧ ldtCommand E f p s = s.raise .keyNotLoaded 0) ∨
    ∃ ks, s.keys = some ks ∧
      (((s.len.toNat < 16 ∨ 31 < s.len.toNat) ∧ ldtCommand E f p s = s.raise .invalidLength s.len) ∨
       (16 ≤ s.len.toNat ∧ s.len.toNat ≤ 31 ∧ E.dmemBytes < s.addr.toNat + s.len.toNat ∧
        ldtCommand E f p s = s.raiseRange E s.addr) ∨
       (16 ≤ s.len.toNat ∧ s.len.toNat ≤ 31 ∧ s.addr.toNat + s.len.toNat ≤ E.dmemBytes ∧
        ldtCommand E f p s =
          (s.nextDraw.writeDmem s.addr.toNat (f ks p s.padval s.buffer)).succeed)) := by
  unfold ldtCommand
  split
  · exact .inl ⟨by assumption, rfl⟩
  · rename_i ks hk
    refine .inr ⟨ks, hk, ?_⟩
    split
    · exact .inl ⟨by assumption, rfl⟩
    · split
      · rename_i h1 h2
        exact .inr (.inl ⟨by omega, by omega, by simpa using h2, rfl⟩)
      · rename_i h1 h2
        exact .inr (.inr ⟨by omega, by omega, by simpa using h2, rfl⟩)

/-- A delivery: there is no room, or the plaintext is written at the old pointer. -/
theorem deliver_cases (E : Engine) (pt : Bytes) (s : State) :
    (E.arenaBytes < s.arenaPtr.toNat + pt.length ∧
      deliver E pt s = s.raise .arenaOutOfSpace (BitVec.ofNat 32 pt.length)) ∨
    (s.arenaPtr.toNat + pt.length ≤ E.arenaBytes ∧
      deliver E pt s =
        (((s.setArenaPtr (BitVec.ofNat 32 (s.arenaPtr.toNat + pt.length))).writeArena
          s.arenaPtr.toNat pt).setResult (BitVec.ofNat 32 s.arenaPtr.toNat)
            (BitVec.ofNat 32 pt.length)).succeedMatch) := by
  unfold deliver allocate
  by_cases h : E.arenaBytes < s.arenaPtr.toNat + pt.length
  · exact .inl ⟨h, by rw [if_pos h]⟩
  · exact .inr ⟨by omega, by rw [if_neg h]⟩

/-- Entry j of the table as the read numbered d finds it. -/
def State.entryAt (E : Engine) (s : State) (d j : Nat) : CredEntry :=
  credEntryOf E (Memory.readBytes s.dmem d (s.credAddr E j) E.credStride)

/-- The loop from entry i with k entries left: the first of them that matches is delivered, or none
matches. The entry at i + j is read by the read numbered j from now. -/
theorem resolveFrom_cases (E : Engine) (attempt : CredEntry → Option Bytes) (i k : Nat) (s : State) :
    ((∀ j, j < k → attempt (s.entryAt E (s.draws + j) (i + j)) = none) ∧
      resolveFrom E attempt i k s =
        (State.setCredIdx { s with draws := s.draws + k } (BitVec.ofNat 32 (i + k))).raise
          .noMatchingCredentials 0) ∨
    ∃ j pt, j < k ∧ (∀ l, l < j → attempt (s.entryAt E (s.draws + l) (i + l)) = none) ∧
      attempt (s.entryAt E (s.draws + j) (i + j)) = some pt ∧
      resolveFrom E attempt i k s =
        deliver E pt (State.setCredIdx { s with draws := s.draws + j + 1 } (BitVec.ofNat 32 (i + j))) := by
  induction k generalizing i s with
  | zero => exact .inl ⟨fun j h => absurd h (Nat.not_lt_zero j), rfl⟩
  | succ k ih =>
    have e0 : s.credEntry E i = s.entryAt E (s.draws + 0) (i + 0) := rfl
    cases ha : attempt (s.credEntry E i) with
    | some pt =>
      refine .inr ⟨0, pt, Nat.succ_pos k, fun l h => absurd h (Nat.not_lt_zero l), ?_, ?_⟩
      · rw [← e0, ha]
      · rw [resolveFrom, ha]
        rfl
    | none =>
      have step : resolveFrom E attempt i (k + 1) s = resolveFrom E attempt (i + 1) k s.nextDraw := by
        rw [resolveFrom, ha]
      have er : ∀ j, s.nextDraw.entryAt E (s.nextDraw.draws + j) (i + 1 + j) =
          s.entryAt E (s.draws + (j + 1)) (i + (j + 1)) := by
        intro j
        have e1 : s.draws + 1 + j = s.draws + (j + 1) := by omega
        have e2 : i + 1 + j = i + (j + 1) := by omega
        simp only [State.entryAt, State.nextDraw, State.credAddr, e1, e2]
      rw [step]
      rcases ih (i + 1) s.nextDraw with ⟨h, hr⟩ | ⟨j, pt, hj, hl, hm, hr⟩
      · refine .inl ⟨?_, ?_⟩
        · intro j hj
          cases j with
          | zero => rw [← e0, ha]
          | succ j => rw [← er]; exact h j (by omega)
        · rw [hr]
          have e1 : s.draws + 1 + k = s.draws + (k + 1) := by omega
          have e2 : i + 1 + k = i + (k + 1) := by omega
          simp only [State.nextDraw, e1, e2]
      · refine .inr ⟨j + 1, pt, by omega, ?_, ?_, ?_⟩
        · intro l hl'
          cases l with
          | zero => rw [← e0, ha]
          | succ l => rw [← er]; exact hl l (by omega)
        · rw [← er]; exact hm
        · rw [hr]
          have e1 : s.draws + 1 + j + 1 = s.draws + (j + 1) + 1 := by omega
          have e2 : i + 1 + j = i + (j + 1) := by omega
          simp only [State.nextDraw, e1, e2]

/-- The tests before the loop: one fails, in the order of the tests, or the loop runs. -/
theorem resolve_cases (E : Engine) (legal : Nat → Bool) (record : Bytes → State → State)
    (attempt : Bytes → CredEntry → Option Bytes) (s : State) :
    (legal s.len.toNat = false ∧
      resolve E legal record attempt s = s.raise .invalidStructure s.len) ∨
    (legal s.len.toNat = true ∧ E.dmemBytes < s.addr.toNat + s.len.toNat ∧
      resolve E legal record attempt s = s.raiseRange E s.addr) ∨
    (legal s.len.toNat = true ∧ s.addr.toNat + s.len.toNat ≤ E.dmemBytes ∧
      E.ncredMax < s.credCount.toNat ∧
      resolve E legal record attempt s = s.raise .credCountRange s.credCount) ∨
    (legal s.len.toNat = true ∧ s.addr.toNat + s.len.toNat ≤ E.dmemBytes ∧
      s.credCount.toNat ≤ E.ncredMax ∧ 0 < s.credCount.toNat ∧
      E.dmemBytes < s.credBase.toNat + s.credCount.toNat * E.credStride ∧
      resolve E legal record attempt s = s.raiseRange E s.credBase) ∨
    (legal s.len.toNat = true ∧ s.tablesFit E ∧
      resolve E legal record attempt s =
        resolveLoop E (attempt s.buffer) (record s.buffer s.nextDraw)) := by
  unfold resolve
  by_cases h1 : legal s.len.toNat = true
  · rw [if_neg (by simp [h1])]
    by_cases h2 : E.dmemBytes < s.addr.toNat + s.len.toNat
    · rw [if_pos (by simpa using h2)]
      exact .inr (.inl ⟨h1, h2, rfl⟩)
    · rw [if_neg (by simpa using h2)]
      by_cases h3 : E.ncredMax < s.credCount.toNat
      · rw [if_pos h3]
        exact .inr (.inr (.inl ⟨h1, by omega, h3, rfl⟩))
      · rw [if_neg h3]
        by_cases h4 : 0 < s.credCount.toNat ∧
            E.dmemBytes < s.credBase.toNat + s.credCount.toNat * E.credStride
        · rw [if_pos (by simpa using h4)]
          exact .inr (.inr (.inr (.inl ⟨h1, by omega, by omega, h4.1, h4.2, rfl⟩)))
        · rw [if_neg (by simpa using h4)]
          refine .inr (.inr (.inr (.inr ⟨h1, ⟨by omega, by omega, ?_⟩, rfl⟩)))
          by_cases h5 : s.credCount.toNat = 0
          · exact .inl (BitVec.eq_of_toNat_eq (by simpa using h5))
          · exact .inr (by
              rw [not_and] at h4
              have := h4 (by omega)
              omega)
  · have h1' : legal s.len.toNat = false := by simpa using h1
    rw [if_pos (by simp [h1'])]
    exact .inl ⟨h1', rfl⟩

end Sys2Proof.Machine
end

