-- ==== Sys2Proof/Laws/Commands.lean ====
section
/-! SUPPORT. What a command can do, said once: the state it leaves is one of the cases of
`CommandTo`. -/

namespace Sys2Proof.Machine

/-- The state a command leaves. -/
def result (E : Engine) (i : Instr) (s : State) : State :=
  match i with
  | .keyLoad => keyLoad E s
  | .twkStep => twkStep E s
  | .twkAdv => twkAdv E s
  | .mix => mix E s
  | .pad p => pad E p s
  | .xtsEnc k => xtsCommand E (xtsEncUnit E) k s
  | .xtsDec k => xtsCommand E (xtsDecUnit E) k s
  | .ldtEnc p => ldtCommand E (ldtEncrypt E) p s
  | .ldtDec p => ldtCommand E (ldtDecrypt E) p s
  | .resolveV0 p => resolveV0 E p s
  | .resolveV1 l m => resolveV1 E l m s
  | .arenaReset => arenaReset s

/-- The commands that write TWEAK. -/
def WritesTweak (i : Instr) : Prop := i = .twkStep ∨ i = .twkAdv ∨ i = .mix ∨ ∃ p, i = .pad p

/-- The commands that replace the buffer. -/
def WritesBuffer (i : Instr) : Prop :=
  (∃ k, i = .xtsEnc k) ∨ (∃ k, i = .xtsDec k) ∨ (∃ p, i = .ldtEnc p) ∨ ∃ p, i = .ldtDec p

/-- The two RESOLVE commands. -/
def Resolves (i : Instr) : Prop := (∃ p, i = .resolveV0 p) ∨ ∃ l m, i = .resolveV1 l m

/-- A delivered plaintext is shorter than its frame by what the frame has around it. -/
def DeliveredLength (E : Engine) (i : Instr) (frame pt : Nat) : Prop :=
  match i with
  | .resolveV0 _ => pt + 16 = frame
  | .resolveV1 l m => pt + (2 + saltBytes l + trailerBytes E m) = frame
  | _ => False

/-- All a command can do to a state. -/
inductive CommandTo (E : Engine) (s : State) : Instr → State → Prop where
  /-- A test fails. -/
  | failed (i : Instr) (c : ErrCode) (w : Word) (h : c ≠ .ok ∧ c ≠ .panic ∧
      c ≠ .noMatchingCredentials ∧ c ≠ .arenaOutOfSpace) : CommandTo E s i (s.raise c w)
  /-- PAD on a tail that is too long. -/
  | panicked (p : Padder) (h : 15 < s.len.toNat) : CommandTo E s (.pad p) s.enterPanic
  /-- TWEAK is written. -/
  | tweak (i : Instr) (h : WritesTweak i) (d : Nat) (v : Block) :
      CommandTo E s i (State.setTweak { s with draws := d } v).succeed
  /-- Both key slots are written. -/
  | keys (k : LdtKey) (h : k.Sized E) : CommandTo E s .keyLoad (s.nextDraw.setKeys k).succeed
  /-- The buffer is replaced. -/
  | buffer (i : Instr) (h : WritesBuffer i) (bs : Bytes) (l : bs.length = s.len.toNat)
      (fits : s.addr.toNat + s.len.toNat ≤ E.dmemBytes) :
      CommandTo E s i (s.nextDraw.writeDmem s.addr.toNat bs).succeed
  /-- No credential matches. -/
  | noMatch (i : Instr) (h : Resolves i) (d : Nat) (salt : Block) (sl : Word) (nonce : Nonce)
      (token : Block) (hs : sl = 2 ∨ sl = 16) (count : s.credCount.toNat ≤ E.ncredMax) :
      CommandTo E s i (((State.setSirc { s with draws := d } salt sl nonce token).setCredIdx
        s.credCount).raise .noMatchingCredentials 0)
  /-- A credential matches, and the arena has no room. -/
  | noRoom (i : Instr) (h : Resolves i) (d : Nat) (salt : Block) (sl : Word) (nonce : Nonce)
      (token : Block) (hs : sl = 2 ∨ sl = 16) (j : Nat) (count : j < E.ncredMax) (n : Nat) :
      CommandTo E s i (((State.setSirc { s with draws := d } salt sl nonce token).setCredIdx
        (BitVec.ofNat 32 j)).raise .arenaOutOfSpace (BitVec.ofNat 32 n))
  /-- A credential matches, and its plaintext is delivered. -/
  | delivered (i : Instr) (h : Resolves i) (d : Nat) (salt : Block) (sl : Word) (nonce : Nonce)
      (token : Block) (hs : sl = 2 ∨ sl = 16) (j : Nat) (count : j < E.ncredMax) (pt : Bytes)
      (len : DeliveredLength E i s.len.toNat pt.length)
      (room : s.arenaPtr.toNat + pt.length ≤ E.arenaBytes) :
      CommandTo E s i (((((State.setSirc { s with draws := d } salt sl nonce token).setCredIdx
        (BitVec.ofNat 32 j)).setArenaPtr (BitVec.ofNat 32 (s.arenaPtr.toNat + pt.length))).writeArena
          s.arenaPtr.toNat pt).setResult s.arenaPtr (BitVec.ofNat 32 pt.length)).succeedMatch
  /-- The arena is dropped. -/
  | arenaReset : CommandTo E s .arenaReset (s.setArenaPtr 0).succeed

/-! ### Lengths -/

theorem xtsKeyOf_length (E : Engine) (x : Bytes) (h : x.length = E.aesKeySize.xtsKeyBytes) :
    (xtsKeyOf E x).primary.length = E.aesKeySize.keyBytes ∧
      (xtsKeyOf E x).tweak.length = E.aesKeySize.keyBytes := by
  simp only [AesKeySize.xtsKeyBytes] at h
  simp only [xtsKeyOf, length_slice, h]
  omega

/-- A key blob of the legal length has parts of the legal length. -/
theorem ldtKeyOf_sized (E : Engine) (b : Bytes) (h : b.length = E.aesKeySize.ldtKeyBytes) :
    (ldtKeyOf E b).Sized E := by
  simp only [AesKeySize.ldtKeyBytes] at h
  have h1 := xtsKeyOf_length E (slice b 0 E.aesKeySize.xtsKeyBytes) (by rw [length_slice]; omega)
  have h2 := xtsKeyOf_length E (slice b E.aesKeySize.xtsKeyBytes (2 * E.aesKeySize.xtsKeyBytes))
    (by rw [length_slice]; omega)
  exact ⟨h1.1, h1.2, h2.1, h2.2⟩

/-- A V0 match delivers as many bytes as its ciphertext has. -/
theorem length_attemptV0 {E : Engine} {p : Padder} {v : Block} {f : Bytes} {e : CredEntry} {pt : Bytes}
    (hf : v0LengthLegal f.length = true) (h : attemptV0 E p v (v0Fields f) e = some pt) :
    pt.length + 16 = f.length := by
  simp only [v0LengthLegal, decide_eq_true_eq] at hf
  simp only [attemptV0, v0Attempt] at h
  split at h
  · cases h
    rw [length_ldtDecrypt _ _ _ _ _ (by simp [v0Fields]; omega) (by simp [v0Fields]; omega)]
    simp only [v0Fields, List.length_drop]
    omega
  · cases h

/-- A V1 match delivers the token and as many bytes as the data element has. -/
theorem length_attemptV1 {E : Engine} {m : VerifyMode} {hdr : Byte} {sl tl : Nat} {f : Bytes}
    {e : CredEntry} {pt : Bytes} (hf : v1LengthLegal f.length sl tl = true)
    (h : attemptV1 E m hdr sl (v1Fields f sl tl) e = some pt) :
    pt.length + (2 + sl + tl) = f.length := by
  simp only [v1LengthLegal, decide_eq_true_eq] at hf
  have hd : (v1Fields f sl tl).de.length = f.length - tl - (18 + sl) := by
    simp only [v1Fields, length_slice]
    omega
  cases m <;> simp only [attemptV1, v1AttemptMic, v1AttemptSig] at h <;> split at h <;> cases h <;>
    simp only [List.length_append, length_blockBytes, Vector.length_toList, hd] <;> omega

/-! ### The cases -/

/-- What either RESOLVE command can do. -/
theorem resolve_commandTo (E : Engine) (i : Instr) (hi : Resolves i) (legal : Nat → Bool)
    (record : Bytes → State → State) (attempt : Bytes → CredEntry → Option Bytes) (s : State)
    (hr : ∀ f t, ∃ salt sl nonce token, (sl = 2 ∨ sl = 16) ∧ record f t = t.setSirc salt sl nonce token)
    (hl : ∀ f e pt, legal f.length = true → attempt f e = some pt →
      DeliveredLength E i f.length pt.length) :
    CommandTo E s i (resolve E legal record attempt s) := by
  rcases resolve_cases E legal record attempt s with ⟨-, h⟩ | ⟨-, -, h⟩ | ⟨-, -, -, h⟩ |
    ⟨-, -, -, -, -, h⟩ | ⟨hleg, fit, h⟩
  · rw [h]; exact .failed _ _ _ (by decide)
  · rw [h]; exact .failed _ _ _ (by decide)
  · rw [h]; exact .failed _ _ _ (by decide)
  · rw [h]; exact .failed _ _ _ (by decide)
  · obtain ⟨salt, sl, nonce, token, hs, er⟩ := hr s.buffer s.nextDraw
    have hc := fit.2.1
    rw [h, er, resolveLoop]
    rcases resolveFrom_cases E (attempt s.buffer) 0
        (s.nextDraw.setSirc salt sl nonce token).credCount.toNat
        (s.nextDraw.setSirc salt sl nonce token) with ⟨-, h2⟩ | ⟨j, pt, hj, -, ha, h2⟩
    · rw [h2]
      have key : ∀ c : Word, c = s.credCount → CommandTo E s i (((State.setSirc
          { s with draws := s.draws + 1 + s.credCount.toNat } salt sl nonce token).setCredIdx c).raise
            .noMatchingCredentials 0) := by
        rintro _ rfl
        exact .noMatch i hi _ salt sl nonce token hs hc
      exact key _ (by simp)
    · rw [h2]
      have hj' : j < s.credCount.toNat := hj
      have hlen := hl s.buffer _ pt (by simpa [State.buffer] using hleg) ha
      rcases deliver_cases E pt (State.setCredIdx { s.nextDraw.setSirc salt sl nonce token with
          draws := (s.nextDraw.setSirc salt sl nonce token).draws + j + 1 } (BitVec.ofNat 32 (0 + j)))
        with ⟨-, h3⟩ | ⟨room, h3⟩
      · rw [h3]
        exact CommandTo.noRoom (E := E) (s := s) i hi (s.draws + 1 + j + 1) salt sl nonce token hs
          (0 + j) (by omega) pt.length
      · rw [h3]
        have key : ∀ c : Word, c = s.arenaPtr → CommandTo E s i (((((State.setSirc
            { s with draws := s.draws + 1 + j + 1 } salt sl nonce token).setCredIdx
              (BitVec.ofNat 32 (0 + j))).setArenaPtr
                (BitVec.ofNat 32 (s.arenaPtr.toNat + pt.length))).writeArena
                  s.arenaPtr.toNat pt).setResult c (BitVec.ofNat 32 pt.length)).succeedMatch := by
          rintro _ rfl
          exact .delivered i hi _ salt sl nonce token hs _ (by omega) pt
            (by simpa [State.buffer] using hlen) room
        exact key (BitVec.ofNat 32 s.arenaPtr.toNat) (by simp)

/-- What a command can do. -/
theorem result_commandTo (E : Engine) (i : Instr) (s : State) : CommandTo E s i (result E i s) := by
  cases i with
  | keyLoad =>
    rcases keyLoad_cases E s with ⟨-, h⟩ | ⟨-, -, h⟩ | ⟨hl, -, h⟩ <;> rw [result, h]
    · exact .failed _ _ _ (by decide)
    · exact .failed _ _ _ (by decide)
    · exact .keys _ (ldtKeyOf_sized E _ (by simpa [State.buffer] using hl))
  | twkStep => exact .tweak _ (.inl rfl) s.draws _
  | twkAdv => exact .tweak _ (.inr (.inl rfl)) s.draws _
  | mix => exact .tweak _ (.inr (.inr (.inl rfl))) s.draws _
  | pad p =>
    rcases pad_cases E p s with ⟨hl, h⟩ | ⟨-, -, h⟩ | ⟨-, -, h⟩ <;> rw [result, h]
    · exact .panicked p hl
    · exact .failed _ _ _ (by decide)
    · exact .tweak _ (.inr (.inr (.inr ⟨p, rfl⟩))) (s.draws + 1) _
  | xtsEnc k =>
    rcases xtsCommand_cases E (xtsEncUnit E) k s with ⟨-, h⟩ | ⟨ks, -, ⟨-, h⟩ | ⟨-, h⟩ | ⟨-, -, -, h⟩ |
      ⟨h1, -, fits, h⟩⟩ <;> rw [result, h]
    any_goals exact .failed _ _ _ (by decide)
    exact .buffer _ (.inl ⟨k, rfl⟩) _ (by
      rw [length_xtsEncUnit _ _ _ _ (by simpa [State.buffer] using h1)]; simp [State.buffer]) fits
  | xtsDec k =>
    rcases xtsCommand_cases E (xtsDecUnit E) k s with ⟨-, h⟩ | ⟨ks, -, ⟨-, h⟩ | ⟨-, h⟩ | ⟨-, -, -, h⟩ |
      ⟨h1, -, fits, h⟩⟩ <;> rw [result, h]
    any_goals exact .failed _ _ _ (by decide)
    exact .buffer _ (.inr (.inl ⟨k, rfl⟩)) _ (by
      rw [length_xtsDecUnit _ _ _ _ (by simpa [State.buffer] using h1)]; simp [State.buffer]) fits
  | ldtEnc p =>
    rcases ldtCommand_cases E (ldtEncrypt E) p s with ⟨-, h⟩ | ⟨ks, -, ⟨-, h⟩ | ⟨-, -, -, h⟩ |
      ⟨h1, h2, fits, h⟩⟩ <;> rw [result, h]
    any_goals exact .failed _ _ _ (by decide)
    exact .buffer _ (.inr (.inr (.inl ⟨p, rfl⟩))) _ (by
      rw [length_ldtEncrypt _ _ _ _ _ (by simpa [State.buffer] using h1)
        (by simp [State.buffer]; omega)]; simp [State.buffer]) fits
  | ldtDec p =>
    rcases ldtCommand_cases E (ldtDecrypt E) p s with ⟨-, h⟩ | ⟨ks, -, ⟨-, h⟩ | ⟨-, -, -, h⟩ |
      ⟨h1, h2, fits, h⟩⟩ <;> rw [result, h]
    any_goals exact .failed _ _ _ (by decide)
    exact .buffer _ (.inr (.inr (.inr ⟨p, rfl⟩))) _ (by
      rw [length_ldtDecrypt _ _ _ _ _ (by simpa [State.buffer] using h1)
        (by simp [State.buffer]; omega)]; simp [State.buffer]) fits
  | resolveV0 p =>
    rw [result, resolveV0]
    refine resolve_commandTo E _ (.inl ⟨p, rfl⟩) _ _ _ s ?_ ?_
    · exact fun f t => ⟨_, _, _, _, .inl rfl, rfl⟩
    · exact fun f e pt hf h => length_attemptV0 hf h
  | resolveV1 l m =>
    rw [result, resolveV1]
    refine resolve_commandTo E _ (.inr ⟨l, m, rfl⟩) _ _ _ s ?_ ?_
    · refine fun f t => ⟨_, _, _, _, ?_, rfl⟩
      cases l
      · exact .inl rfl
      · exact .inr rfl
    · exact fun f e pt hf h => length_attemptV1 hf h
  | arenaReset => exact .arenaReset

end Sys2Proof.Machine
end

