-- ==== Sys2Proof/Laws/Decode.lean ====
section
/-! SUPPORT. A word and its fields determine each other, and the fields of a legal word are those of
its command. -/

namespace Sys2Proof

@[simp] theorem packFields_fieldsOf (w : Word) : packFields (fieldsOf w) = w := by
  apply BitVec.eq_of_getLsbD_eq
  intro k hk
  simp only [packFields, fieldsOf, BitVec.getLsbD_append, BitVec.getLsbD_extractLsb',
    BitVec.getLsbD_ofBool]
  by_cases h8 : k < 8
  · simp [h8]
  · by_cases h : k = 8 ∨ k = 9 ∨ k = 10 ∨ k = 11
    · rcases h with rfl | rfl | rfl | rfl <;> simp
    · have h1 : ¬ k < 9 := by omega
      have h2 : ¬ k < 10 := by omega
      have h3 : ¬ k < 11 := by omega
      have h4 : ¬ k < 12 := by omega
      have e : 12 + (k - 8 - 1 - 1 - 1 - 1) = k := by omega
      have e' : k - 8 - 1 - 1 - 1 - 1 < 20 := by omega
      simp [h8, show ¬ k - 8 < 1 by omega, show ¬ k - 8 - 1 < 1 by omega,
        show ¬ k - 8 - 1 - 1 < 1 by omega, show ¬ k - 8 - 1 - 1 - 1 < 1 by omega, e, e']

@[simp] theorem fieldsOf_packFields (f : Fields) : fieldsOf (packFields f) = f := by
  obtain ⟨op, k, p, s, g, r⟩ := f
  simp only [fieldsOf, packFields, Fields.mk.injEq]
  refine ⟨?_, ?_, ?_, ?_, ?_, ?_⟩
  · apply BitVec.eq_of_getLsbD_eq
    intro i hi
    simp only [BitVec.getLsbD_extractLsb', BitVec.getLsbD_append]
    simp [hi]
  · simp only [BitVec.getLsbD_append]
    simp
  · simp only [BitVec.getLsbD_append]
    simp
  · simp only [BitVec.getLsbD_append]
    simp
  · simp only [BitVec.getLsbD_append]
    simp
  · apply BitVec.eq_of_getLsbD_eq
    intro i hi
    simp only [BitVec.getLsbD_extractLsb', BitVec.getLsbD_append]
    have e : 12 + i - 8 - 1 - 1 - 1 - 1 = i := by omega
    simp [hi, show ¬ 12 + i < 8 by omega, show ¬ 12 + i - 8 < 1 by omega,
      show ¬ 12 + i - 8 - 1 < 1 by omega, show ¬ 12 + i - 8 - 1 - 1 < 1 by omega,
      show ¬ 12 + i - 8 - 1 - 1 - 1 < 1 by omega, e]

/-- The fields of a command decode to it. -/
theorem decodeFields_encodeFields (i : Instr) : decodeFields (encodeFields i) = .ok i := by
  cases i with
  | pad p => cases p <;> rfl
  | xtsEnc k => cases k <;> rfl
  | xtsDec k => cases k <;> rfl
  | ldtEnc p => cases p <;> rfl
  | ldtDec p => cases p <;> rfl
  | resolveV0 p => cases p <;> rfl
  | resolveV1 l m => cases l <;> cases m <;> rfl
  | _ => rfl

/-- What a decoder that accepts has seen: the three checks of the spec, and the command of the opcode. -/
theorem decodeFields_ok {f : Fields} {i : Instr} (h : decodeFields f = .ok i) :
    f.reservedClear = true ∧ commandOf f = some i ∧ f.flagsListed = true := by
  unfold decodeFields at h
  split at h
  · cases h
  · rename_i hr
    cases hc : commandOf f with
    | none => simp [hc] at h
    | some j =>
      simp only [hc] at h
      split at h
      · rename_i hl
        cases h
        exact ⟨by simpa using hr, rfl, hl⟩
      · cases h

/-- The four bytes of a word are decoded as that word. -/
theorem decode_bytesLe (w : Word) (rest : Bytes) :
    decode (bytesLe 4 w ++ rest) = (decodeWord w).map fun i => (i, rest) := by
  have h : bytesLe 4 w = [byteAt w 0, byteAt w 1, byteAt w 2, byteAt w 3] := rfl
  have e := ofBytesLe_bytesLe_word w
  rw [h] at e ⊢
  simp only [List.cons_append, List.nil_append, decode, e]

end Sys2Proof
end

