-- ==== Sys2Proof/Laws/PerInstr.lean ====
section
/-! SUPPORT. One statement per command: its word carries the match value of its row of the opcode
map under the row's mask, and is one of the legal words (`30_encoding.md` R93, R94). -/

namespace Sys2Proof.Laws

/-- The mask and the match value of a command's row of the opcode map (`30_encoding.md` R93). -/
def opcodeRow : Instr → Word × Word
  | .keyLoad => (0xFFFFFFFF, 0x00000001)
  | .twkStep => (0xFFFFFFFF, 0x00000002)
  | .twkAdv => (0xFFFFFFFF, 0x00000003)
  | .mix => (0xFFFFFFFF, 0x00000004)
  | .pad _ => (0xFFFFFDFF, 0x00000005)
  | .xtsEnc _ => (0xFFFFFEFF, 0x00000008)
  | .xtsDec _ => (0xFFFFFEFF, 0x00000009)
  | .ldtEnc _ => (0xFFFFFDFF, 0x0000000A)
  | .ldtDec _ => (0xFFFFFDFF, 0x0000000B)
  | .resolveV0 _ => (0xFFFFFDFF, 0x00000010)
  | .resolveV1 _ _ => (0xFFFFF3FF, 0x00000011)
  | .arenaReset => (0xFFFFFFFF, 0x00000018)

/-- The word of a command passes the mask of its row, and no other row's. -/
def EncodesItsTableRow.Statement (i : Instr) : Prop :=
  encodeWord i ∈ legalWords ∧
    ∀ j : Instr, (encodeWord i &&& (opcodeRow j).1 = (opcodeRow j).2 ↔ opcodeRow i = opcodeRow j)

theorem EncodesItsTableRow.keyLoad : EncodesItsTableRow.Statement .keyLoad :=
  ⟨by decide, by intro j; cases j <;> simp only [opcodeRow] <;> decide⟩

theorem EncodesItsTableRow.twkStep : EncodesItsTableRow.Statement .twkStep :=
  ⟨by decide, by intro j; cases j <;> simp only [opcodeRow] <;> decide⟩

theorem EncodesItsTableRow.twkAdv : EncodesItsTableRow.Statement .twkAdv :=
  ⟨by decide, by intro j; cases j <;> simp only [opcodeRow] <;> decide⟩

theorem EncodesItsTableRow.mix : EncodesItsTableRow.Statement .mix :=
  ⟨by decide, by intro j; cases j <;> simp only [opcodeRow] <;> decide⟩

theorem EncodesItsTableRow.pad (p : Padder) : EncodesItsTableRow.Statement (.pad p) := by
  cases p <;>
    exact ⟨by decide, by intro j; cases j <;> simp only [opcodeRow] <;> decide⟩

theorem EncodesItsTableRow.xtsEnc (k : KeySlot) : EncodesItsTableRow.Statement (.xtsEnc k) := by
  cases k <;>
    exact ⟨by decide, by intro j; cases j <;> simp only [opcodeRow] <;> decide⟩

theorem EncodesItsTableRow.xtsDec (k : KeySlot) : EncodesItsTableRow.Statement (.xtsDec k) := by
  cases k <;>
    exact ⟨by decide, by intro j; cases j <;> simp only [opcodeRow] <;> decide⟩

theorem EncodesItsTableRow.ldtEnc (p : Padder) : EncodesItsTableRow.Statement (.ldtEnc p) := by
  cases p <;>
    exact ⟨by decide, by intro j; cases j <;> simp only [opcodeRow] <;> decide⟩

theorem EncodesItsTableRow.ldtDec (p : Padder) : EncodesItsTableRow.Statement (.ldtDec p) := by
  cases p <;>
    exact ⟨by decide, by intro j; cases j <;> simp only [opcodeRow] <;> decide⟩

theorem EncodesItsTableRow.resolveV0 (p : Padder) : EncodesItsTableRow.Statement (.resolveV0 p) := by
  cases p <;>
    exact ⟨by decide, by intro j; cases j <;> simp only [opcodeRow] <;> decide⟩

theorem EncodesItsTableRow.resolveV1 (l : SaltKind) (m : VerifyMode) :
    EncodesItsTableRow.Statement (.resolveV1 l m) := by
  cases l <;> cases m <;>
    exact ⟨by decide, by intro j; cases j <;> simp only [opcodeRow] <;> decide⟩

theorem EncodesItsTableRow.arenaReset : EncodesItsTableRow.Statement .arenaReset :=
  ⟨by decide, by intro j; cases j <;> simp only [opcodeRow] <;> decide⟩

end Sys2Proof.Laws
end

