-- ==== Sys2Proof/Laws/Resolve.lean ====
section
/-! SUPPORT. The identity-resolution loop in terms of the entries a RESOLVE command reads. -/

namespace Sys2Proof.Machine

/-- The tests before the loop pass when the frame's length is legal and the tables fit. -/
theorem resolve_runs (E : Engine) (legal : Nat → Bool) (record : Bytes → State → State)
    (attempt : Bytes → CredEntry → Option Bytes) (s : State) (hl : legal s.len.toNat = true)
    (fit : s.tablesFit E) :
    resolve E legal record attempt s = resolveLoop E (attempt s.buffer) (record s.buffer s.nextDraw) := by
  obtain ⟨f1, f2, f3⟩ := fit
  rcases resolve_cases E legal record attempt s with ⟨h1, -⟩ | ⟨-, h1, -⟩ | ⟨-, -, h1, -⟩ |
    ⟨-, -, -, h1, h2, -⟩ | ⟨-, -, h⟩
  · simp [hl] at h1
  · omega
  · omega
  · rcases f3 with f3 | f3
    · simp [f3] at h1
    · omega
  · exact h

/-- A state after the frame of s was read and recorded: what the loop needs to know of it. -/
def State.LoopEntry (s r : State) : Prop :=
  r.dmem = s.dmem ∧ r.draws = s.draws + 1 ∧ r.credBase = s.credBase ∧ r.credCount = s.credCount

theorem loopEntry_recordV0 (f : V0Frame) (s : State) : s.LoopEntry (recordV0 f s.nextDraw) :=
  ⟨rfl, rfl, rfl, rfl⟩

theorem loopEntry_recordV1 (E : Engine) (sl : Nat) (f : V1Frame) (s : State) :
    s.LoopEntry (recordV1 E sl f s.nextDraw) := ⟨rfl, rfl, rfl, rfl⟩

theorem State.LoopEntry.entryAt {s r : State} (h : s.LoopEntry r) (E : Engine) (j : Nat) :
    r.entryAt E (r.draws + j) (0 + j) = s.entryRead E j := by
  obtain ⟨d1, d2, d3, d4⟩ := h
  simp [State.entryAt, State.entryRead, State.credAddr, d1, d2, d3]

/-- The first entry that matches is delivered. -/
theorem resolveLoop_match {E : Engine} {attempt : CredEntry → Option Bytes} {s r : State}
    (hr : s.LoopEntry r) {i : Nat} {pt : Bytes} (hi : i < s.credCount.toNat)
    (hb : ∀ j, j < i → attempt (s.entryRead E j) = none) (hm : attempt (s.entryRead E i) = some pt) :
    resolveLoop E attempt r =
      deliver E pt (State.setCredIdx { r with draws := s.draws + 2 + i } (BitVec.ofNat 32 i)) := by
  have loop : resolveLoop E attempt r = resolveFrom E attempt 0 s.credCount.toNat r := by
    rw [resolveLoop, hr.2.2.2]
  rw [loop]
  rcases resolveFrom_cases E attempt 0 s.credCount.toNat r with ⟨h, -⟩ | ⟨j, pt', -, hl, hm', h⟩
  · have := h i hi
    rw [hr.entryAt, hm] at this
    cases this
  · simp only [hr.entryAt] at hl hm'
    have hij : j = i := by
      rcases Nat.lt_trichotomy i j with h | h | h
      · have := hl i h
        rw [hm] at this
        cases this
      · exact h.symm
      · have := hb j h
        rw [hm'] at this
        cases this
    subst hij
    rw [hm] at hm'
    cases hm'
    rw [h, Nat.zero_add]
    have e : r.draws + j + 1 = s.draws + 2 + j := by
      rw [hr.2.1]
      omega
    rw [e]

/-- No entry matches. -/
theorem resolveLoop_none {E : Engine} {attempt : CredEntry → Option Bytes} {s r : State}
    (hr : s.LoopEntry r) (hn : ∀ j, j < s.credCount.toNat → attempt (s.entryRead E j) = none) :
    resolveLoop E attempt r =
      (State.setCredIdx { r with draws := s.draws + 1 + s.credCount.toNat } s.credCount).raise
        .noMatchingCredentials 0 := by
  have loop : resolveLoop E attempt r = resolveFrom E attempt 0 s.credCount.toNat r := by
    rw [resolveLoop, hr.2.2.2]
  rw [loop]
  rcases resolveFrom_cases E attempt 0 s.credCount.toNat r with ⟨-, h⟩ | ⟨j, pt, hj, -, hm, -⟩
  · have e : BitVec.ofNat 32 (0 + s.credCount.toNat) = s.credCount := by simp
    rw [h, e, hr.2.1]
  · rw [hr.entryAt, hn j hj] at hm
    cases hm

end Sys2Proof.Machine
end

