-- ==== Sys2Proof/Laws/Step.lean ====
section
/-! SUPPORT. What `exec` and `step` can do, said once. -/

namespace Sys2Proof.Machine

/-- Every command ends in a next state. -/
theorem exec_eq (i : Instr) (s : State) : exec i s = .next (result Config.engine i s) := by
  cases i <;> rfl

theorem exec_eq_next {i : Instr} {s t : State} : exec i s = .next t ↔ result Config.engine i s = t := by
  rw [exec_eq, Host.Outcome.next.injEq]

/-- What a command that answers a next state has done. -/
theorem exec_commandTo {i : Instr} {s t : State} (h : exec i s = .next t) :
    CommandTo Config.engine s i t := by
  rw [exec_eq_next] at h
  exact h ▸ result_commandTo Config.engine i s

/-- A run goes on from the state a step leaves. -/
theorem core_run_succ {s t : State} (h : step s = .next t) (k : Nat) :
    core.run (k + 1) s = core.run k t := by
  have run : ∀ (M : Host.Core) (s t : M.State), M.step s = .next t → M.run (k + 1) s = M.run k t := by
    intro M s t h
    simp only [Host.Core.run, h]
  exact run core s t h

theorem core_run_zero (s : State) : core.run 0 s = .next s := rfl

/-! ### Registers -/

@[simp] theorem Reg.at?_offset (r : Reg) : Reg.at? r.offset = some r := by
  revert r
  have h : ∀ r ∈ Reg.all, Reg.at? r.offset = some r := by decide
  intro r
  apply h
  cases r with
  | tweak n => revert n; decide
  | padval n => revert n; decide
  | sircSalt n => revert n; decide
  | sircNonce n => revert n; decide
  | sircToken n => revert n; decide
  | _ => decide

theorem Reg.offset_of_at? {off : Nat} {r : Reg} (h : Reg.at? off = some r) : r.offset = off := by
  simpa using List.find?_some h

theorem Reg.at?_eq_none {off : Nat} (h : ∀ r : Reg, r.offset ≠ off) : Reg.at? off = none := by
  rw [Reg.at?, List.find?_eq_none]
  intro r _ hr
  exact h r (by simpa using hr)

theorem Reg.offset_lt (r : Reg) : r.offset < 0x100 := by
  cases r with
  | tweak n => simp only [Reg.offset]; omega
  | padval n => simp only [Reg.offset]; omega
  | sircSalt n => simp only [Reg.offset]; omega
  | sircNonce n => simp only [Reg.offset]; omega
  | sircToken n => simp only [Reg.offset]; omega
  | _ => decide

theorem Reg.offset_aligned (r : Reg) : r.offset % 4 = 0 := by
  cases r with
  | tweak n => simp only [Reg.offset]; omega
  | padval n => simp only [Reg.offset]; omega
  | sircSalt n => simp only [Reg.offset]; omega
  | sircNonce n => simp only [Reg.offset]; omega
  | sircToken n => simp only [Reg.offset]; omega
  | _ => rfl

/-! ### The host's accesses -/

/-- The next access of the host is taken off its list. -/
theorem step_cons {s : State} {h : HostStep} {rest : List HostStep} (e : s.host = h :: rest) :
    step s = hostAccess h { s with host := rest } := by
  simp only [step, hostNext, e]

theorem step_nil {s : State} (e : s.host = []) : step s = .next s := by
  simp only [step, hostNext, e]

theorem onRegister_offered {off : Nat} (h1 : off < 0x100) (h2 : off % 4 = 0)
    (k : Host.Outcome State Fault Refusal) : onRegister off k = k := by
  simp [onRegister, show ¬ 0x100 ≤ off by omega, h2]

/-- A next state of a register access is that of the access. -/
theorem onRegister_next {off : Nat} {k : Host.Outcome State Fault Refusal} {t : State}
    (h : onRegister off k = .next t) : off < 0x100 ∧ off % 4 = 0 ∧ k = .next t := by
  unfold onRegister at h
  split at h
  · cases h
  · split at h
    · cases h
    · rename_i h1 h2
      exact ⟨by omega, by omega, h⟩

/-- A register an access right other than read-write is not written. -/
theorem writeReg_readOnly (s : State) (v : Word) (r : Reg) (h : r.access ≠ .readWrite) :
    s.writeReg v r = s := by
  cases r <;> first | rfl | exact absurd rfl h

/-- All a step can do. The premise of each case is what the host asked for. -/
inductive StepTo (s : State) : State → Prop where
  /-- The host asks for nothing. -/
  | idle (h : s.host = []) : StepTo s s
  /-- A write that is ignored: in the panic state, or of a register that is not written. -/
  | ignored (h : HostStep) (rest : List HostStep) (e : s.host = h :: rest) (ne : h ≠ .reset) :
      StepTo s { s with host := rest }
  /-- An illegal word. -/
  | illegal (w : Word) (rest : List HostStep) (e : s.host = .writeReg 0x000 w :: rest)
      (p : s.panic = false) (err : DecodeError) (d : decodeWord w = .error err) :
      StepTo s (State.raise { s with host := rest } .illegalCommand w)
  /-- A command. -/
  | command (w : Word) (rest : List HostStep) (e : s.host = .writeReg 0x000 w :: rest)
      (p : s.panic = false) (i : Instr) (d : decodeWord w = .ok i) (t : State)
      (x : exec i { s with host := rest } = .next t) : StepTo s t
  /-- A write of a read-write register. -/
  | register (r : Reg) (v : Word) (rest : List HostStep) (e : s.host = .writeReg r.offset v :: rest)
      (p : s.panic = false) (a : r.access = .readWrite) :
      StepTo s (State.writeReg { s with host := rest } v r)
  /-- A read of a register. -/
  | readReg (off : Nat) (rest : List HostStep) (e : s.host = .readReg off :: rest) :
      StepTo s { s with host := rest, readData := .word (s.registerValue off) }
  /-- A write of a byte of DMEM. -/
  | writeDmem (a : Nat) (v : Byte) (rest : List HostStep) (e : s.host = .writeDmem a v :: rest)
      (p : s.panic = false) (h : a < Config.engine.dmemBytes) :
      StepTo s (State.writeDmem { s with host := rest } a [v])
  /-- A read of a byte of DMEM. -/
  | readDmem (a : Nat) (rest : List HostStep) (e : s.host = .readDmem a :: rest)
      (h : a < Config.engine.dmemBytes) :
      StepTo s { s with host := rest, draws := s.draws + 1,
                        readData := .byte (Memory.readByte s.dmem s.draws a) }
  /-- A read of a byte of the arena. -/
  | readArena (a : Nat) (rest : List HostStep) (e : s.host = .readArena a :: rest)
      (h : a < Config.engine.arenaBytes) :
      StepTo s { s with host := rest, draws := s.draws + 1, readData := .byte (s.arenaByte a) }
  /-- Reset. -/
  | reset (rest : List HostStep) (e : s.host = .reset :: rest) :
      StepTo s (State.afterReset { s with host := rest })

/-- Every step that answers a next state is one of the cases of `StepTo`. -/
theorem step_next {s t : State} (h : step s = .next t) : StepTo s t := by
  cases hh : s.host with
  | nil =>
    rw [step_nil hh] at h
    cases h
    exact .idle hh
  | cons a rest =>
    rw [step_cons hh] at h
    cases a with
    | writeReg off v =>
      replace h := (onRegister_next h).2.2
      unfold hostWriteReg at h
      split at h
      · cases h
        exact .ignored _ _ hh (by simp)
      · rename_i hp
        have hp' : s.panic = false := by simpa using hp
        split at h
        · cases h
          exact .ignored _ _ hh (by simp)
        · rename_i hr
          have ho : (0x000 : Nat) = off := Reg.offset_of_at? hr
          subst ho
          unfold execWord at h
          split at h
          · rename_i err hd
            cases h
            exact .illegal v rest hh hp' err hd
          · rename_i i hd
            exact .command v rest hh hp' i hd t h
        · rename_i r hne hr
          cases h
          have ho := Reg.offset_of_at? hr
          subst ho
          by_cases ha : r.access = .readWrite
          · exact .register r v rest hh hp' ha
          · rw [writeReg_readOnly _ _ _ ha]
            exact .ignored _ _ hh (by simp)
    | readReg off =>
      replace h := (onRegister_next h).2.2
      cases h
      exact .readReg off rest hh
    | writeDmem a v =>
      simp only [hostAccess, hostWriteDmem] at h
      split at h
      · cases h
      · split at h
        · cases h
          exact .ignored _ _ hh (by simp)
        · rename_i ha hp
          cases h
          exact .writeDmem a v rest hh (by simpa using hp) (by omega)
    | readDmem a =>
      simp only [hostAccess, hostReadDmem] at h
      split at h
      · cases h
      · cases h
        exact .readDmem a rest hh (by omega)
    | readArena a =>
      simp only [hostAccess, hostReadArena] at h
      split at h
      · cases h
      · cases h
        exact .readArena a rest hh (by omega)
    | reset =>
      cases h
      exact .reset rest hh

/-- A write of a legal command word runs the command. -/
theorem step_command {s : State} {w : Word} {i : Instr} {rest : List HostStep}
    (e : s.host = .writeReg 0x000 w :: rest) (p : s.panic = false) (d : decodeWord w = .ok i) :
    step s = exec i { s with host := rest } := by
  rw [step_cons e]
  have ha : Reg.at? 0x000 = some .cmd := Reg.at?_offset .cmd
  simp only [hostAccess, onRegister_offered (show (0 : Nat) < 0x100 by decide) rfl, hostWriteReg, p,
    ha, execWord, d, Bool.false_eq_true, if_false]

/-- A write of a register other than CMD. -/
theorem step_writeReg {s : State} {r : Reg} {v : Word} {rest : List HostStep}
    (e : s.host = .writeReg r.offset v :: rest) (p : s.panic = false) (n : r ≠ .cmd) :
    step s = .next (State.writeReg { s with host := rest } v r) := by
  rw [step_cons e]
  simp only [hostAccess, onRegister_offered r.offset_lt r.offset_aligned, hostWriteReg, p,
    Reg.at?_offset, Bool.false_eq_true, if_false]

/-- A write in the register space that the model offers. -/
theorem step_hostWriteReg {s : State} {off : Nat} {v : Word} {rest : List HostStep}
    (e : s.host = .writeReg off v :: rest) (h1 : off < 0x100) (h2 : off % 4 = 0) :
    step s = hostWriteReg off v { s with host := rest } := by
  rw [step_cons e]
  exact onRegister_offered h1 h2 _

/-- A read in the register space that the model offers. -/
theorem step_readReg {s : State} {off : Nat} {rest : List HostStep}
    (e : s.host = .readReg off :: rest) (h1 : off < 0x100) (h2 : off % 4 = 0) :
    step s = .next { s with host := rest, readData := .word (s.registerValue off) } := by
  rw [step_cons e]
  exact onRegister_offered h1 h2 _

/-- A write of a byte of DMEM. -/
theorem step_writeDmem {s : State} {a : Nat} {v : Byte} {rest : List HostStep}
    (e : s.host = .writeDmem a v :: rest) (p : s.panic = false) (h : a < Config.engine.dmemBytes) :
    step s = .next (State.writeDmem { s with host := rest } a [v]) := by
  rw [step_cons e, hostAccess, hostWriteDmem, if_neg (Nat.not_le.2 h), if_neg (by simp [p])]

/-- A read of a byte of DMEM. -/
theorem step_readDmem {s : State} {a : Nat} {rest : List HostStep}
    (e : s.host = .readDmem a :: rest) (h : a < Config.engine.dmemBytes) :
    step s = .next { s with host := rest, draws := s.draws + 1,
                            readData := .byte (Memory.readByte s.dmem s.draws a) } := by
  rw [step_cons e, hostAccess, hostReadDmem, if_neg (Nat.not_le.2 h)]
  rfl

/-- A read of a byte of the arena. -/
theorem step_readArena {s : State} {a : Nat} {rest : List HostStep}
    (e : s.host = .readArena a :: rest) (h : a < Config.engine.arenaBytes) :
    step s = .next { s with host := rest, draws := s.draws + 1, readData := .byte (s.arenaByte a) } := by
  rw [step_cons e, hostAccess, hostReadArena, if_neg (Nat.not_le.2 h)]
  rfl

end Sys2Proof.Machine
end

