-- ==== Sys2Proof/Tests/Toy.lean ====
section
/-! SUPPORT. The test configuration TOY of `95_test_vectors.md` section 1: parameters and toy provider. -/

namespace Sys2Proof.Tests

open Sys2Proof Sys2Proof.Machine

/-- Every byte one place down, byte 0 to the top. -/
def rotateDown (x : Block) : Block := (x >>> 8) ||| (x <<< 120)

/-- Every byte one place up, byte 15 to the bottom. -/
def rotateUp (x : Block) : Block := (x <<< 8) ||| (x >>> 120)

theorem rotateUp_rotateDown (x : Block) : rotateUp (rotateDown x) = x := by
  ext i hi
  have e := BitVec.getLsbD_of_ge x (8 + (120 + i)) (by omega)
  simp only [rotateUp, rotateDown, BitVec.getElem_or, BitVec.getElem_shiftLeft,
    BitVec.getElem_ushiftRight, BitVec.getLsbD_or, BitVec.getLsbD_ushiftRight,
    BitVec.getLsbD_shiftLeft]
  by_cases h : i < 8
  · simp [h, e, show 120 + i - 120 = i by omega, show 120 + i < 128 by omega,
      BitVec.getLsbD_eq_getElem hi]
  · simp [h, e, show 8 + (i - 8) = i by omega, show i - 8 < 120 by omega,
      BitVec.getLsbD_eq_getElem hi, show ¬ 120 + i < 128 by omega]

theorem rotateDown_rotateUp (x : Block) : rotateDown (rotateUp x) = x := by
  ext i hi
  have e := BitVec.getLsbD_of_ge x (120 + (8 + i)) (by omega)
  simp only [rotateUp, rotateDown, BitVec.getElem_or, BitVec.getElem_shiftLeft,
    BitVec.getElem_ushiftRight, BitVec.getLsbD_or, BitVec.getLsbD_ushiftRight,
    BitVec.getLsbD_shiftLeft]
  have e8 : 8 + i - 8 = i := by omega
  by_cases h : i < 120
  · simp [h, e, e8, show 8 + i < 128 by omega, BitVec.getLsbD_eq_getElem hi]
  · simp [h, e, e8, show 120 + (i - 120) = i by omega, show i - 120 < 8 by omega,
      BitVec.getLsbD_eq_getElem hi, show ¬ 8 + i < 128 by omega]

/-- `AesEnc`: XOR the key, rotate left one byte; `AesDec` is its inverse. -/
def toyAes (k : Bytes) : Equiv.Perm Block where
  toFun b := rotateDown (b ^^^ blockOfBytes k)
  invFun c := rotateUp c ^^^ blockOfBytes k
  left_inv b := by simp [rotateUp_rotateDown]
  right_inv c := by simp [rotateDown_rotateUp]

/-- `Hmac`: byte i of the tag is the key byte XOR every message byte at an index that is i modulo 16. -/
def toyTag (k m : Bytes) : Bytes :=
  (List.range 16).map fun i =>
    ((List.range m.length).filter fun j => j % 16 == i).foldl (fun t j => t ^^^ m.getD j 0)
      (k.getD (i % k.length) 0)

/-- `ComputeNonce`. -/
def toyNonce (salt : Bytes) : Nonce :=
  ofBytesLe 96 ((List.range 12).map fun i => salt.getD (i % salt.length) 0)

/-- Byte j of `V1Decrypt`'s keystream. -/
def toyStream (seed : Bytes) (nonce : Nonce) (j : Nat) : Byte :=
  seed.getD (j % 32) 0 ^^^ byteAt nonce (j % 12)

/-- The test configuration. -/
def toy : Engine where
  aesKeySize := .aes128
  gfReduce := 0x87
  mixPerm := Config.byteReversal
  dmemBytes := 4096
  arenaBytes := 254
  ncredMax := 16
  macLen := 16
  micLen := 16
  sigLen := 64
  pubkeyBytes := 32
  svcCtx := [0xFC, 0xF1]
  sigCtx := [0x74, 0x6F, 0x79, 0x2D, 0x73, 0x69, 0x67]
  aes := toyAes
  hmac n k m := ⟨((List.range n).map fun i => (toyTag k m).getD i 0).toArray, by simp⟩
  deriveV0Ldt sd :=
    ⟨((List.range 64).map fun i => if i < 32 then sd.getD i 0 else ~~~ sd.getD (i - 32) 0).toArray,
      by simp [AesKeySize.ldtKeyBytes, AesKeySize.xtsKeyBytes, AesKeySize.keyBytes]⟩
  deriveV0Hmac sd := sd.take 16
  computeNonce := toyNonce
  v1Decrypt sd _ nonce tok de :=
    (blockOfBytes ((List.range 16).map fun j => byteAt tok j ^^^ toyStream sd nonce j),
     ⟨((List.range de.length).map fun j => de.getD j 0 ^^^ toyStream sd nonce (16 + j)).toArray,
      by simp⟩)
  deriveV1Mic sd sl :=
    (List.range 16).map fun i => sd.getD (16 + i) 0 ^^^ (if i = 0 then BitVec.ofNat 8 sl else 0)
  ed25519Verify pk ctx m sig :=
    let t := toyTag (pk.take 16) (ctx ++ m)
    sig == t ++ t ++ t ++ t

end Sys2Proof.Tests
end

