-- ==== Sys2Proof/Tests/Slice0.lean ====
section
/-! SUPPORT. Tests. The expected values are those of `95_test_vectors.md` (named beside each test) or of
the encoding tables of `30_encoding.md`, and after them the witnesses for the hypotheses of the
statements. -/

namespace Sys2Proof.Tests

open Sys2Proof Sys2Proof.Machine

/-! ### The three checks on a command word (`30_encoding.md` R95) -/

theorem test_ill_formed_reserved :
    Fields.wellFormed ⟨0x08, false, false, false, false, 1⟩ = false ∧
    decodeFields ⟨0x08, false, false, false, false, 1⟩ = .error .reservedBits := by decide

theorem test_ill_formed_opcode :
    Fields.wellFormed ⟨0x06, false, false, false, false, 0⟩ = false ∧
    decodeFields ⟨0x06, false, false, false, false, 0⟩ = .error .unassignedOpcode := by decide

theorem test_ill_formed_flag :
    Fields.wellFormed ⟨0x08, false, true, false, false, 0⟩ = false ∧
    decodeFields ⟨0x08, false, true, false, false, 0⟩ = .error .unlistedFlag := by decide

theorem test_well_formed : Fields.wellFormed ⟨0x11, false, false, true, true, 0⟩ = true := by decide

/-! ### Decoding, the words written out from R90 and R93: [31:12] zero, SIGMODE, SALT16, PSEL, KSEL, OP -/

theorem test_decode_keyLoad :
    decodeWord 0b00000000000000000000_0_0_0_0_00000001 = .ok .keyLoad := by decide

theorem test_decode_twkStep :
    decodeWord 0b00000000000000000000_0_0_0_0_00000010 = .ok .twkStep := by decide

theorem test_decode_twkAdv :
    decodeWord 0b00000000000000000000_0_0_0_0_00000011 = .ok .twkAdv := by decide

theorem test_decode_mix : decodeWord 0b00000000000000000000_0_0_0_0_00000100 = .ok .mix := by decide

theorem test_decode_pad :
    decodeWord 0b00000000000000000000_0_0_0_0_00000101 = .ok (.pad .default) ∧
    decodeWord 0b00000000000000000000_0_0_1_0_00000101 = .ok (.pad .xor) := by decide

theorem test_decode_xtsEnc :
    decodeWord 0b00000000000000000000_0_0_0_0_00001000 = .ok (.xtsEnc .key1) ∧
    decodeWord 0b00000000000000000000_0_0_0_1_00001000 = .ok (.xtsEnc .key2) := by decide

theorem test_decode_xtsDec :
    decodeWord 0b00000000000000000000_0_0_0_0_00001001 = .ok (.xtsDec .key1) ∧
    decodeWord 0b00000000000000000000_0_0_0_1_00001001 = .ok (.xtsDec .key2) := by decide

theorem test_decode_ldtEnc :
    decodeWord 0b00000000000000000000_0_0_0_0_00001010 = .ok (.ldtEnc .default) ∧
    decodeWord 0b00000000000000000000_0_0_1_0_00001010 = .ok (.ldtEnc .xor) := by decide

theorem test_decode_ldtDec :
    decodeWord 0b00000000000000000000_0_0_0_0_00001011 = .ok (.ldtDec .default) ∧
    decodeWord 0b00000000000000000000_0_0_1_0_00001011 = .ok (.ldtDec .xor) := by decide

theorem test_decode_resolveV0 :
    decodeWord 0b00000000000000000000_0_0_0_0_00010000 = .ok (.resolveV0 .default) ∧
    decodeWord 0b00000000000000000000_0_0_1_0_00010000 = .ok (.resolveV0 .xor) := by decide

theorem test_decode_resolveV1 :
    decodeWord 0b00000000000000000000_0_0_0_0_00010001 = .ok (.resolveV1 .short .mic) ∧
    decodeWord 0b00000000000000000000_0_1_0_0_00010001 = .ok (.resolveV1 .extended .mic) ∧
    decodeWord 0b00000000000000000000_1_0_0_0_00010001 = .ok (.resolveV1 .short .signature) ∧
    decodeWord 0b00000000000000000000_1_1_0_0_00010001 = .ok (.resolveV1 .extended .signature) := by
  decide

theorem test_decode_arenaReset :
    decodeWord 0b00000000000000000000_0_0_0_0_00011000 = .ok .arenaReset := by decide

/-- The bytes of a command word, the least significant first, and the bytes after it. -/
theorem test_decode_bytes :
    decode [0x0A, 0x02, 0x00, 0x00, 0xEE] = .ok (.ldtEnc .xor, [0xEE]) ∧
    decode [0x0A, 0x02, 0x00] = .error .truncated := by decide

theorem test_encode_bytes : encode (.resolveV1 .extended .signature) = [0x11, 0x0C, 0x00, 0x00] := by
  decide

/-- The illegal words of section 3.1. -/
theorem test_illegal_words :
    [0x00000000#32, 0x00000006, 0x00000012].all (decodeWord · == .error .unassignedOpcode) = true ∧
    [0x00000101#32, 0x00000208, 0x0000010A, 0x0000030A, 0x00000410, 0x00000211, 0x00000218].all
      (decodeWord · == .error .unlistedFlag) = true ∧
    [0x00001008#32, 0x80000001, 0xFFFFFFFF].all (decodeWord · == .error .reservedBits) = true := by
  decide

theorem test_table_words :
    decodeTableWord 32 0x00000009 = some (.xtsDec .key1) ∧ decodeTableWord 32 0x00000208 = none ∧
    decodeTableWord 16 0x0410 = none ∧ decodeTableWord 16 0x0210 = some (.resolveV0 .xor) := by decide

/-! ### One command at a time, in the test configuration -/

/-- n bytes written as one hexadecimal number, first byte first. -/
def hex (n v : Nat) : Bytes := (bytesLe n (BitVec.ofNat (8 * n) v)).reverse

/-- The 16 bytes of a hexadecimal number, first byte first, as a block. -/
def hexBlock (v : Nat) : Block := blockOfBytes (hex 16 v)

/-- The state after reset with the given TWEAK. -/
def tweaked (t : Block) : State := { State.reset with tweak := t }

/-- ADDR and LEN set. -/
def at_ (s : State) (a n : Nat) : State := { s with addr := BitVec.ofNat 32 a, len := BitVec.ofNat 32 n }

/-- The given bytes in DMEM as the buffer. -/
def buffered (s : State) (a : Nat) (bs : Bytes) : State := (at_ s a bs.length).writeDmem a bs

/-- The standing key blob of section 1. -/
def standingBlob : Bytes := (List.range 64).map (BitVec.ofNat 8)

/-- "Keys loaded". -/
def keyed : State := { State.reset with keys := some (ldtKeyOf toy standingBlob) }

/-- ERR and ERRINFO after a command. -/
def ending (i : Instr) (s : State) : ErrCode × Word := ((result toy i s).err, (result toy i s).errinfo)

/-- T3: the carry out of byte 15 and those between the bytes. -/
theorem test_twkStep : (result toy .twkStep (tweaked (BitVec.allOnes 128))).tweak =
    hexBlock 0x79FFFFFFFFFFFFFFFFFFFFFFFFFFFFFF := by decide

/-- T4. -/
theorem test_twkStep_carry : (result toy .twkStep (tweaked 0x80)).tweak =
    hexBlock 0x00010000000000000000000000000000 := by decide

/-- T12. -/
theorem test_twkAdv : (result toy .twkAdv
      { tweaked (hexBlock 0x000102030405060708090A0B0C0D0E0F) with blkidx := 3 }).tweak =
    hexBlock 0x00081018202830384048505860687078 := by decide

/-- T10. -/
theorem test_twkAdv_wraps :
    (result toy .twkAdv { tweaked 1 with blkidx := 128 }).tweak = 0x87 := by decide +kernel

/-- M1. -/
theorem test_mix : (result toy .mix (tweaked (hexBlock 0x000102030405060708090A0B0C0D0E0F))).tweak =
    hexBlock 0x0F0E0D0C0B0A09080706050403020100 := by decide

/-- PD5. -/
theorem test_pad_xor : (result toy (.pad .xor)
      { buffered .reset 0x200 (hex 4 0xDEADBEEF) with
        padval := hexBlock 0xA0A1A2A3A4A5A6A7A8A9AAABACADAEAF }).tweak =
    hexBlock 0x7E0C1C4C24A5A6A7A8A9AAABACADAEAF := by decide

/-- PD12: the length test comes first, and panics. -/
theorem test_pad_panics :
    (result toy (.pad .xor) (at_ (tweaked 0x11) 0x200 4294967295)).statusWord = 0x0000FF08 ∧
    (result toy (.pad .xor) (at_ (tweaked 0x11) 0x200 4294967295)).tweak = 0x11 := by decide

/-- K1 and the splitting of the standing key blob. -/
theorem test_keyLoad : (result toy .keyLoad (buffered .reset 0x100 standingBlob)).keys =
    some ⟨⟨hex 16 0x000102030405060708090A0B0C0D0E0F, hex 16 0x101112131415161718191A1B1C1D1E1F⟩,
          ⟨hex 16 0x202122232425262728292A2B2C2D2E2F, hex 16 0x303132333435363738393A3B3C3D3E3F⟩⟩ := by
  decide +kernel

/-- K2, K3, K5. -/
theorem test_keyLoad_errors :
    ending .keyLoad (at_ .reset 0x100 32) = (.badKeyLength, 0x20) ∧
    ending .keyLoad (at_ .reset 4033 64) = (.addrRange, 0x1000) ∧
    ending .keyLoad (at_ .reset 5000 0) = (.badKeyLength, 0) := by decide

/-- X3: one steal. -/
theorem test_xtsEnc : (result toy (.xtsEnc .key1)
      { buffered keyed 0x200 (hex 20 0x404142434445464748494A4B4C4D4E4F50515253) with
        tweak := hexBlock 0xF0F1F2F3F4F5F6F7F8F9FAFBFCFDFEFF }).dmem =
    Memory.writeBytes [] 0x200 (hex 20 0xD650504445464748494A4B4C4D4E4FD640404040) := by decide +kernel

/-- X8, X9, X11, X12, X14. -/
theorem test_xtsEnc_errors :
    ending (.xtsEnc .key1) (at_ .reset 0x200 3) = (.keyNotLoaded, 0) ∧
    ending (.xtsEnc .key1) (at_ keyed 0x200 15) = (.dataTooShort, 0xF) ∧
    ending (.xtsEnc .key1) (at_ keyed 0x200 16777217) = (.dataTooLong, 0x01000001) ∧
    ending (.xtsEnc .key2) (at_ keyed 0x200 16777216) = (.addrRange, 0x1000) ∧
    ending (.xtsEnc .key2) (at_ keyed 0xFFFFFFF0 16) = (.addrRange, 0xFFFFFFF0) := by decide +kernel

/-- X5, decrypted: three blocks under slot 2. -/
theorem test_xtsDec : (result toy (.xtsDec .key2)
      { buffered keyed 0x200 (hex 48 0x2B333B3B030B13136B637B7B734B4323DDA3ABABB3BB83839B93EBEBE3FBF3D540D2DBDB232B33330B031B1B136B6349) with
        tweak := hexBlock 0xF0F1F2F3F4F5F6F7F8F9FAFBFCFDFEFF }).dmem =
    Memory.writeBytes [] 0x200
      (hex 48 0x030A11181F262D343B424950575E656C737A81888F969DA4ABB2B9C0C7CED5DCE3EAF1F8FF060D141B222930373E454C) := by
  decide +kernel

/-- X4: the steal undone. -/
theorem test_xtsDec_steal : (result toy (.xtsDec .key1)
      { buffered keyed 0x200 (hex 20 0xD650504445464748494A4B4C4D4E4FD640404040) with
        tweak := hexBlock 0xF0F1F2F3F4F5F6F7F8F9FAFBFCFDFEFF }).dmem =
    Memory.writeBytes [] 0x200 (hex 20 0x404142434445464748494A4B4C4D4E4F50515253) := by decide +kernel

/-- L3: the longest message, XOR padder. -/
theorem test_ldtEnc : (result toy (.ldtEnc .xor)
      { buffered keyed 0x200 (hex 31 0xF0EBE6E1DCD7D2CDC8C3BEB9B4AFAAA5A09B96918C87827D78736E69645F5A) with
        padval := hexBlock 0xA0A1A2A3A4A5A6A7A8A9AAABACADAEAF }).dmem =
    Memory.writeBytes [] 0x200
      (hex 31 0xE7E3FFD3D72BCFCBD7B3BF83A77E8ACB76619688A6C4B650B6A44668567456) := by decide +kernel

/-- L6, L9, L10, L12. -/
theorem test_ldtEnc_errors :
    ending (.ldtEnc .default) (at_ keyed 0x200 15) = (.invalidLength, 0xF) ∧
    ending (.ldtEnc .default) (at_ .reset 0x200 40) = (.keyNotLoaded, 0) ∧
    ending (.ldtEnc .default) (at_ keyed 4080 17) = (.addrRange, 0x1000) ∧
    ending (.ldtEnc .default) (at_ keyed 9999 32) = (.invalidLength, 0x20) := by decide

/-- L5. -/
theorem test_ldtDec : (result toy (.ldtDec .default)
      (buffered keyed 0x200 (hex 20 0x616794E060606060606060606060016332515751))).dmem =
    Memory.writeBytes [] 0x200 (hex 20 0x6162636465666768696A6B6C6D6E6F7071727374) := by decide +kernel

/-- L5b: the wrong padder is not detected. -/
theorem test_ldtDec_wrong_padder : (result toy (.ldtDec .default)
      (buffered keyed 0x200
        (hex 31 0xE7E3FFD3D72BCFCBD7B3BF83A77E8ACB76619688A6C4B650B6A44668567456))).dmem =
    Memory.writeBytes [] 0x200
      (hex 31 0xF1E8E7E6DDD4D3C2C9C0BFBEB5ACABAAA09B96918C87827D78736E69645F5A) := by decide +kernel

/-- The two entries of section 4 at 0x400. -/
def tableV0 : Bytes :=
  hex 48 0xD3DEE9F4FF0A15202B36414C57626D78838E99A4AFBAC5D0DBE6F1FC07121D2831393D2529515D4541797D756961838A ++
    zeros 32 ++
  hex 48 0x21282F363D444B525960676E757C838A91989FA6ADB4BBC2C9D0D7DEE5ECF3FA31393D2529515D4541797D756961838A ++
    zeros 32

/-- The state of Q1. -/
def stateQ1 : State :=
  { (buffered .reset 0x300
      (hex 32 0xABCDE0E1E2E3E4E5E6E7E8E9EAEBECED3E042E305E244E587E744E607E947EB8)).writeDmem 0x400 tableV0 with
    credBase := 0x400, credCount := 2 }

/-- Q1. -/
theorem test_resolveV0 :
    let t := result toy (.resolveV0 .default) stateQ1
    t.statusWord = 0x00000006 ∧ t.credIdx = 1 ∧ t.resAddr = 0 ∧ t.resLen = 16 ∧ t.arenaPtr = 16 ∧
    t.arena = Memory.writeBytes [] 0 (hex 16 0x101112131415161718191A1B1C1D1E1F) ∧
    t.sircSalt = hexBlock 0xABCD0000000000000000000000000000 ∧ t.sircSaltLen = 2 ∧ t.sircNonce = 0 ∧
    t.sircToken = hexBlock 0xE0E1E2E3E4E5E6E7E8E9EAEBECED0000 := by decide +kernel

/-- Q5, Q9, Q10, Q13, Q17. -/
theorem test_resolveV0_errors :
    ending (.resolveV0 .default) { stateQ1 with len := 31 } = (.invalidStructure, 0x1F) ∧
    ending (.resolveV0 .default) { stateQ1 with addr := 4065 } = (.addrRange, 0x1000) ∧
    ending (.resolveV0 .default) { stateQ1 with credCount := 17 } = (.credCountRange, 0x11) ∧
    ending (.resolveV0 .default) { stateQ1 with credBase := 0xFFFFFFFF, credCount := 1 } =
      (.addrRange, 0xFFFFFFFF) ∧
    ending (.resolveV0 .default) { stateQ1 with credCount := 1 } = (.noMatchingCredentials, 0) := by
  decide +kernel

/-- The table of section 3.8 at 0x400. -/
def tableV1 : Bytes :=
  hex 32 0xC0C3C6C9CCCFD2D5D8DBDEE1E4E7EAEDF0F3F6F9FCFF0205080B0E1114171A1D ++ zeros 16 ++
    List.replicate 32 0x99 ++
  hex 32 0x101112131415161718191A1B1C1D1E1F202122232425262728292A2B2C2D2E2F ++ zeros 16 ++
    hex 32 0x505152535455565758595A5B5C5D5E5F606162636465666768696A6B6C6D6E6F

/-- The state of V1. -/
def stateV1 : State :=
  { (buffered .reset 0x300 (hex 44
      0x205AC3EA73EA73EA73EA73EA73EA73EA73EA73186FE37AC67D4CC7282ABCBAB7DD47FE427EF61441DC45D841)).writeDmem
        0x400 tableV1 with
    credBase := 0x400, credCount := 2, advHdr := 0x20 }

/-- V1: short salt, MIC mode. -/
theorem test_resolveV1_mic :
    let t := result toy (.resolveV1 .short .mic) stateV1
    t.statusWord = 0x00000006 ∧ t.credIdx = 1 ∧ t.resLen = 24 ∧ t.arenaPtr = 24 ∧
    t.arena = Memory.writeBytes [] 0 (hex 24 0xA0A1A2A3A4A5A6A7A8A9AAABACADAEAF1501022603AABBCC) ∧
    t.sircSaltLen = 2 ∧ bytesLe 12 t.sircNonce = hex 12 0x5AC35AC35AC35AC35AC35AC3 ∧
    t.sircToken = hexBlock 0xEA73EA73EA73EA73EA73EA73EA73EA73 := by decide +kernel

/-- V3: extended salt, signature mode, after 24 bytes were delivered. -/
theorem test_resolveV1_signature :
    let s := buffered { stateV1 with arenaPtr := 24 } 0x300
      (0x21 :: hex 16 0x707172737475767778797A7B7C7D7E7F ++ hex 16 0xC0C1C2C3C4C5C6C7C8C9CACBC0C1C2C3 ++
        0x50 :: (List.replicate 4 (hex 16 0x8D9480D28A929E2775A5A7FFF9FBF9F7)).flatten)
    let t := result toy (.resolveV1 .extended .signature) s
    s.len = 98 ∧ t.statusWord = 0x00000006 ∧ t.credIdx = 1 ∧ t.resAddr = 24 ∧ t.resLen = 16 ∧
    t.arenaPtr = 40 ∧
    t.arena = Memory.writeBytes [] 24 (hex 16 0xA0A1A2A3A4A5A6A7A8A9AAABACADAEAF) ∧ t.sircSaltLen = 16 := by
  decide +kernel

/-- A1. -/
theorem test_arenaReset :
    let t := result toy .arenaReset { State.reset with arenaPtr := 40, resAddr := 24, resLen := 16 }
    t.statusWord = 0x00000002 ∧ t.arenaPtr = 0 ∧ t.resAddr = 24 ∧ t.resLen = 16 := by decide

/-! ### The host's steps, on the machine itself -/

/-- The state a step answers, if it is a next state. -/
def nextOf (o : Host.Outcome State Fault Refusal) : Option State :=
  match o with
  | .next t => some t
  | _ => none

/-- The first command after reset runs, whichever it is; 0x00000208 is illegal (section 3.1). -/
theorem test_first_command :
    legalWords.all (fun w => (nextOf (step (State.reset.withFetchWord 32 w.toNat))).isSome) = true ∧
    (nextOf (step (State.reset.withFetchWord 32 0x208))).map (fun t => (t.statusWord, t.errinfo)) =
      some (0x00000702, 0x00000208) := by decide +kernel

/-- A TWEAK word is written and read back, and TWK_STEP at the machine's own constant (T4). -/
theorem test_host_steps :
    nextOf (core.run 3 { State.reset with
        host := [.writeReg 0x040 0x80, .writeReg 0x000 0x00000002, .readReg 0x040] }) =
      some { State.reset with tweak := 0x100, done := true, readData := .word 0x100 } := by
  decide +kernel

/-- The addresses that do not exist, and the access that is not offered (`20_memory.md` R65). -/
theorem test_host_outside :
    step { State.reset with host := [.writeReg 0x100 0] } = .fault (.registerOutside 0x100) ∧
    step { State.reset with host := [.readReg 0x041] } = .refused (.misalignedRegister 0x041) ∧
    step { State.reset with host := [.readArena 254] } = .fault (.arenaOutside 254) := ⟨rfl, rfl, rfl⟩

/-! ### Witnesses: states and operands that meet the hypotheses of the statements -/

theorem dmemBytes_bounds : 4096 ≤ Config.engine.dmemBytes ∧ Config.engine.dmemBytes ≤ 2 ^ 32 := by
  have h := Config.dmemBeyondLeast.isLt
  have e : Config.engine.dmemBytes = 4096 + Config.dmemBeyondLeast.val := rfl
  omega

theorem ncredMax_bounds : 10 ≤ Config.engine.ncredMax ∧ Config.engine.ncredMax < 2 ^ 32 - 1 := by
  have h := Config.ncredBeyondLeast.isLt
  have e : Config.engine.ncredMax = 10 + Config.ncredBeyondLeast.val := rfl
  omega

theorem micLen_lt : Config.engine.micLen < 256 := Config.micLen.isLt

theorem sigLen_lt : Config.engine.sigLen < 256 := Config.sigLen.isLt

theorem credStride_bounds : 32 ≤ Config.engine.credStride ∧ Config.engine.credStride ≤ 542 := by
  have h1 := Config.macLen.isLt
  have h2 := Config.pubkeyBytes.isLt
  have e : Config.engine.credStride = 32 + Config.macLen.val + Config.pubkeyBytes.val := rfl
  omega

theorem keyBytes_bounds :
    16 ≤ Config.engine.aesKeySize.keyBytes ∧ Config.engine.aesKeySize.keyBytes ≤ 32 := by
  cases Config.engine.aesKeySize <;> decide

theorem toNat_ofNat {n : Nat} (h : n < 2 ^ 32) : (BitVec.ofNat 32 n).toNat = n := by
  rw [BitVec.toNat_ofNat, Nat.mod_eq_of_lt h]

theorem at_addr (s : State) {a n : Nat} (h : a < 2 ^ 32) : (at_ s a n).addr.toNat = a := toNat_ofNat h

theorem at_len (s : State) {a n : Nat} (h : n < 2 ^ 32) : (at_ s a n).len.toNat = n := toNat_ofNat h

/-- The last n bytes of DMEM as the buffer. -/
def topmost (s : State) (n : Nat) : State := at_ s (Config.engine.dmemBytes - n) n

/-- The same one byte further up, past the end of DMEM. -/
def beyond (s : State) (n : Nat) : State := at_ s (Config.engine.dmemBytes - n + 1) n

theorem topmost_fits (s : State) {n : Nat} (h1 : 1 ≤ n) (h2 : n ≤ 4096) :
    (topmost s n).len.toNat = n ∧
      (topmost s n).addr.toNat + (topmost s n).len.toNat = Config.engine.dmemBytes := by
  have hd := dmemBytes_bounds
  rw [topmost, at_addr s (by omega), at_len s (by omega)]
  omega

theorem beyond_overruns (s : State) {n : Nat} (h1 : 2 ≤ n) (h2 : n ≤ 4096) :
    (beyond s n).len.toNat = n ∧
      (beyond s n).addr.toNat + (beyond s n).len.toNat = Config.engine.dmemBytes + 1 := by
  have hd := dmemBytes_bounds
  rw [beyond, at_addr s (by omega), at_len s (by omega)]
  omega

/-- The state after reset with the given accesses to come. -/
def hosting (l : List HostStep) : State := { State.reset with host := l }

/-- The same in the panic state. -/
def panicked (l : List HostStep) : State := { hosting l with panic := true, err := .panic }

/-- A key whose parts have the legal length. -/
def someKey : LdtKey :=
  let part := zeros Config.engine.aesKeySize.keyBytes
  ⟨⟨part, part⟩, ⟨part, part⟩⟩

/-- The state after reset with that key loaded. -/
def loaded : State := { State.reset with keys := some someKey }

theorem witness_DecodeAndEncodeAgree : Instr.wellFormed (.resolveV1 .extended .signature) = true := rfl

theorem witness_WriteOfCmdRunsTheCommand :
    ((hosting [.writeReg 0x000 0x18]).host = .writeReg 0x000 0x18 :: [] ∧
      (hosting [.writeReg 0x000 0x18]).panic = false ∧ decodeWord 0x18 = .ok .arenaReset) ∧
    ((hosting [.writeReg 0x000 0x208]).host = .writeReg 0x000 0x208 :: [] ∧
      (hosting [.writeReg 0x000 0x208]).panic = false ∧ decodeWord 0x208 = .error .unlistedFlag) ∧
    ((panicked [.writeReg 0x000 0x18]).host = .writeReg 0x000 0x18 :: [] ∧
      (panicked [.writeReg 0x000 0x18]).panic = true) ∧
    (hosting [.readReg 0x000]).host = .readReg 0x000 :: [] := by decide

theorem witness_IllegalWordRaisesIllegalCommand :
    (hosting [.writeReg 0x000 0]).host = .writeReg 0x000 0 :: [] ∧
    (hosting [.writeReg 0x000 0]).panic = false ∧ (0 : Word) ∉ legalWords ∧
    (0x1001 : Word) ∉ legalWords ∧ (0xFFFFFFFF : Word) ∉ legalWords := by decide

theorem witness_RegisterAccessRights_readWrite :
    Reg.access .advHdr = .readWrite ∧ (hosting [.writeReg 0x030 0x1FF]).panic = false ∧
    (hosting [.writeReg 0x030 0x1FF]).host = .writeReg (Reg.offset .advHdr) 0x1FF :: [] ∧
    Reg.access (.padval 3) = .readWrite ∧ Reg.access .addr = .readWrite := by decide

theorem witness_RegisterAccessRights_readOnly :
    Reg.access .status = .readOnly ∧
    (hosting [.writeReg 0x004 1]).host = .writeReg (Reg.offset .status) 1 :: [] ∧
    Reg.access (.sircToken 3) = .readOnly := by decide

theorem witness_RegisterAccessRights_read :
    (hosting [.readReg 0x000]).host = .readReg (Reg.offset .cmd) :: [] ∧
    (hosting [.readReg 0x08C]).host = .readReg (Reg.offset (.sircToken 3)) :: [] := by decide

/-- The lowest and the highest reserved offset. -/
theorem witness_RegisterAccessRights_reserved :
    (∀ off ∈ [0x034, 0x0FC], off < 0x100 ∧ off % 4 = 0 ∧ ∀ r : Reg, r.offset ≠ off) ∧
    (hosting [.writeReg 0x034 1]).host = .writeReg 0x034 1 :: [] ∧
    (hosting [.readReg 0x0FC]).host = .readReg 0x0FC :: [] := by
  refine ⟨fun off h => ⟨?_, ?_, fun r e => ?_⟩, rfl, rfl⟩
  · revert off; decide
  · revert off; decide
  · have h1 : ∀ off ∈ [0x034, 0x0FC], Reg.at? off = none := by decide
    have h2 := h1 off h
    rw [← e, Reg.at?_offset] at h2
    cases h2

/-- The first offset beyond the 64 words, and a misaligned one. -/
theorem witness_RegisterAccessRights_notOffered :
    (0x100 ≤ 0x100 ∧ (hosting [.writeReg 0x100 1]).host = .writeReg 0x100 1 :: []) ∧
    (0x0FD % 4 ≠ 0 ∧ (hosting [.readReg 0x0FD]).host = .readReg 0x0FD :: []) := by decide

/-- The last byte of DMEM. -/
theorem witness_HostReadsBackTheByteItWrote :
    let a := Config.engine.dmemBytes - 1
    (hosting [.writeDmem a 0xAB, .readDmem a]).host = .writeDmem a 0xAB :: .readDmem a :: [] ∧
    (hosting [.writeDmem a 0xAB, .readDmem a]).panic = false ∧ a < Config.engine.dmemBytes := by
  have := dmemBytes_bounds
  exact ⟨rfl, rfl, by omega⟩

/-- The last byte of DMEM, written and not; arena byte 252 below the pointer and byte 253 at it. -/
theorem witness_HostReadsGiveTheByteOrAFreeDraw :
    (let a := Config.engine.dmemBytes - 1
     a < Config.engine.dmemBytes ∧
     (hosting [.readDmem a]).host = .readDmem a :: [] ∧ Memory.get (hosting [.readDmem a]).dmem a = none ∧
     Memory.get ({ hosting [.readDmem a] with dmem := [(a, 0xAB)] } : State).dmem a = some 0xAB) ∧
    (let s (a : Nat) : State :=
       { hosting [.readArena a] with arena := [(252, 0xAB), (253, 0xCD)], arenaPtr := 253 }
     ((s 252).host = .readArena 252 :: [] ∧ 252 < Config.engine.arenaBytes ∧
       252 < (s 252).arenaPtr.toNat ∧ Memory.get (s 252).arena 252 = some 0xAB) ∧
     (s 253).host = .readArena 253 :: [] ∧ 253 < Config.engine.arenaBytes ∧
       (s 253).arenaPtr.toNat ≤ 253) := by
  have := dmemBytes_bounds
  exact ⟨⟨by omega, rfl, rfl, by simp [Memory.get]⟩, ⟨rfl, by decide, by decide, rfl⟩, rfl, by decide,
    by decide⟩

/-- The first and the last register of the map. -/
theorem witness_EveryRegisterReadsAtItsOffset :
    (hosting [.readReg 0x000]).host = .readReg 0x000 :: [] ∧
    (hosting [.readReg 0x08C]).host = .readReg 0x08C :: [] := ⟨rfl, rfl⟩

theorem witness_IdleEngineKeepsItsState : ({ loaded with done := true } : State).host = [] := rfl

theorem witness_ResetIsTheOnlyWayOut :
    (panicked [.reset, .readReg 0x004]).host = .reset :: [.readReg 0x004] ∧
    (step (panicked [.reset]) = .next State.reset ∧ (panicked [.reset]).panic = true ∧
      State.reset.panic = false) ∧
    (step { loaded with host := [.reset] } = .next State.reset ∧
      ({ loaded with host := [.reset] } : State).keysValid = true ∧ State.reset.keysValid = false) :=
  ⟨rfl, ⟨rfl, rfl, rfl⟩, rfl, rfl, rfl⟩

theorem witness_WrTweakAndPadvalWriteSixteenBytes :
    (hosting (asmWrTweak 0x87 ++ [])).panic = false ∧
    (hosting (asmWrTweak 0x87 ++ [])).host = asmWrTweak 0x87 ++ [] ∧
    (hosting (asmWrPadval 0x87 ++ [])).host = asmWrPadval 0x87 ++ [] ∧
    (0 < 4 ∧ 3 < 4) := ⟨rfl, rfl, rfl, by decide⟩

theorem witness_TwkToAdvancesTheTweak :
    (hosting (asmTwkTo 0xFFFFFFFF ++ [])).panic = false ∧
    (hosting (asmTwkTo 0xFFFFFFFF ++ [])).host = asmTwkTo 0xFFFFFFFF ++ [] := ⟨rfl, rfl⟩

theorem witness_OnlyALongPadPanics :
    15 < (at_ .reset 0 16).len.toNat ∧
    (exec (.pad .xor) (at_ .reset 0 16) = .next (at_ .reset 0 16).enterPanic ∧
      (at_ .reset 0 16).panic = false ∧ (at_ .reset 0 16).enterPanic.panic = true) ∧
    step { at_ .reset 0 16 with host := [.writeReg 0x000 0x205] } =
      .next (at_ .reset 0 16).enterPanic :=
  ⟨by decide, ⟨rfl, rfl, rfl⟩, rfl⟩

/-- Each access at the top of its space. -/
theorem witness_PanicIgnoresEveryWrite :
    (∀ l, (panicked l).panic = true ∧ (panicked l).host = l) ∧ 0x0FC < 0x100 ∧ 0x0FC % 4 = 0 ∧
    Config.engine.dmemBytes - 1 < Config.engine.dmemBytes ∧ 253 < Config.engine.arenaBytes := by
  have := dmemBytes_bounds
  exact ⟨fun _ => ⟨rfl, rfl⟩, by decide, by decide, by omega, by decide⟩

theorem witness_FlagsDescribeTheLastCommandOnly :
    exec .arenaReset State.reset = .next (arenaReset .reset) ∧ (arenaReset .reset).err ≠ .panic :=
  ⟨rfl, by decide⟩

/-- An empty credential table: the frame of 32 bytes lies at the foot of DMEM. -/
theorem fit_empty (n : Nat) (h : n ≤ 4096) : (at_ .reset 0 n).tablesFit Config.engine := by
  have hd := dmemBytes_bounds
  refine ⟨?_, ?_, .inl rfl⟩
  · rw [at_addr _ (by omega), at_len _ (by omega)]
    omega
  · exact Nat.zero_le _

theorem witness_NoMatchIsReported :
    (32 ≤ (at_ .reset 0 32).len.toNat ∧ (at_ .reset 0 32).len.toNat ≤ 47 ∧
      (at_ .reset 0 32).tablesFit Config.engine ∧
      ∀ j, j < (at_ .reset 0 32).credCount.toNat →
        (at_ .reset 0 32).tryV0 Config.engine .default j = none) ∧
    (let n := 18 + saltBytes .extended + trailerBytes Config.engine .signature
     18 + saltBytes .extended + trailerBytes Config.engine .signature ≤ (at_ .reset 0 n).len.toNat ∧
      (at_ .reset 0 n).tablesFit Config.engine ∧
      ∀ j, j < (at_ .reset 0 n).credCount.toNat →
        (at_ .reset 0 n).tryV1 Config.engine .extended .signature j = none) := by
  have hs := sigLen_lt
  refine ⟨⟨by decide, by decide, fit_empty 32 (by omega), fun j hj => absurd hj (Nat.not_lt_zero j)⟩,
    ?_, fit_empty _ ?_, fun j hj => absurd hj (Nat.not_lt_zero j)⟩
  · rw [at_len _ (by simp only [saltBytes, trailerBytes]; omega)]
  · simp only [saltBytes, trailerBytes]; omega

theorem witness_ErrorsHaveNoPartialEffects :
    (∃ t, exec (.resolveV0 .default) State.reset = .next t ∧ t.err = .invalidStructure) ∧
    (∃ t, exec (.resolveV0 .default) (at_ .reset 0 32) = .next t ∧ t.err = .noMatchingCredentials) := by
  refine ⟨⟨_, rfl, rfl⟩, _, exec_eq _ _, ?_⟩
  rw [result, resolveV0, resolve_runs _ _ _ _ _ (by decide) (fit_empty 32 (by omega)),
    resolveLoop_none (s := at_ .reset 0 32) (loopEntry_recordV0 ..)
      fun j hj => absurd hj (Nat.not_lt_zero j)]
  rfl

theorem witness_EachCommandWritesOnlyItsOwnState :
    exec .arenaReset State.reset = .next (arenaReset .reset) ∧
    (∀ p, Instr.arenaReset ≠ .pad p) ∧ (∀ k, Instr.arenaReset ≠ .xtsEnc k) ∧
    (∀ k, Instr.arenaReset ≠ .xtsDec k) ∧ (∀ p, Instr.arenaReset ≠ .ldtEnc p) ∧
    (∀ p, Instr.arenaReset ≠ .ldtDec p) ∧
    (exec (.xtsEnc .key1) loaded = .next (xtsCommand Config.engine (xtsEncUnit Config.engine) .key1 loaded) ∧
      (∀ p, Instr.xtsEnc .key1 ≠ .pad p) ∧ (∀ p, Instr.xtsEnc .key1 ≠ .resolveV0 p) ∧
      (∀ l m, Instr.xtsEnc .key1 ≠ .resolveV1 l m)) :=
  ⟨rfl, nofun, nofun, nofun, nofun, nofun, rfl, nofun, nofun, nofun⟩

/-- A state with something in every part the invariant speaks of. -/
def lived : State :=
  { loaded with done := true, matched := true, credIdx := 10, dmem := [(0, 0xAA), (4095, 0xBB)],
                arena := [(0, 0x11), (1, 0x22), (253, 0x33)], arenaPtr := 2, resAddr := 1, resLen := 253,
                sircSaltLen := 16, host := [.writeReg 0x000 0x18] }

theorem someKey_sized : someKey.Sized Config.engine := by
  refine ⟨?_, ?_, ?_, ?_⟩ <;> simp [someKey, zeros]

theorem witness_EveryStepKeepsTheInvariant :
    lived.Inv Config.engine ∧ step lived = .next (arenaReset { lived with host := [] }) := by
  refine ⟨⟨⟨?_, ?_, ?_, ?_, ?_⟩, ⟨by decide, by decide, ?_, by decide⟩, ⟨by decide, ?_, by decide⟩, ?_, ?_, ?_⟩,
    rfl⟩
  · decide
  · decide
  · decide
  · decide
  · decide
  · have := dmemBytes_bounds
    intro c hc
    have h : ∀ c ∈ lived.dmem, c.1 < 4096 := by decide
    have := h c hc
    omega
  · decide
  · rintro k ⟨⟩
    exact someKey_sized
  · decide
  · have := ncredMax_bounds
    exact this.1

theorem witness_KeysCannotBeReadBack :
    (hosting [.readReg 0x040]).host = .readReg 0x040 :: [] ∧
    (∀ off v, HostStep.readReg 0x040 = .writeReg off v → off ≠ 0x000) ∧
    step { hosting [.readReg 0x040] with keys := some someKey } =
      .next { loaded with readData := .word 0 } ∧
    (∀ off v, HostStep.writeReg 0x00C 5 = .writeReg off v → off ≠ 0x000) ∧
    step { hosting [.reset] with keys := some someKey } = .next State.reset := by
  refine ⟨rfl, nofun, rfl, ?_, rfl⟩
  rintro off v ⟨⟩
  decide

theorem witness_ResolveIgnoresKeysAndTweak :
    ∃ l m, Instr.resolveV1 .extended .mic = .resolveV1 l m := ⟨_, _, rfl⟩

/-- Sixteen written bytes at the foot of DMEM, and beside them what the statement lets differ. -/
theorem witness_XtsDependsOnItsOperandsOnly :
    let s : State := { buffered loaded 0 (zeros 16) with tweak := 5 }
    let s' : State := { (buffered loaded 0 (zeros 16)).writeDmem 16 [1] with tweak := 5, padval := 7 }
    s.addr = s'.addr ∧ s.len = s'.len ∧ s.tweak = s'.tweak ∧ s.keys = s'.keys ∧
    (∀ j, j < s.len.toNat → ∃ v, Memory.get s.dmem (s.addr.toNat + j) = some v ∧
      Memory.get s'.dmem (s.addr.toNat + j) = some v) ∧
    ∃ t, exec (.xtsEnc .key2) s = .next t := by
  refine ⟨rfl, rfl, rfl, rfl, fun j hj => ?_, _, exec_eq _ _⟩
  refine ⟨0, ?_⟩
  revert j
  decide

theorem witness_DoublingByteByByte : 0 < 16 ∧ 15 < 16 := by decide

theorem witness_AdvanceLaws : (0x87 : Byte).getLsbD 0 = true := by decide

theorem witness_PadWritesThePaddedTail :
    15 < (at_ .reset 0 16).len.toNat ∧
    (let s := beyond .reset 15
     s.len.toNat ≤ 15 ∧ Config.engine.dmemBytes < s.addr.toNat + s.len.toNat) ∧
    (let s := topmost .reset 15
     s.len.toNat ≤ 15 ∧ s.addr.toNat + s.len.toNat ≤ Config.engine.dmemBytes) ∧
    (at_ .reset 0 0).len.toNat ≤ 15 ∧
      (at_ .reset 0 0).addr.toNat + (at_ .reset 0 0).len.toNat ≤ Config.engine.dmemBytes := by
  have h1 := beyond_overruns .reset (n := 15) (by omega) (by omega)
  have h2 := topmost_fits .reset (n := 15) (by omega) (by omega)
  exact ⟨by decide, ⟨by omega, by omega⟩, ⟨by omega, by omega⟩, by decide, Nat.zero_le _⟩

theorem witness_PaddersAreInjective :
    (zeros 15).length ≤ 15 ∧ padTweak .xor 5 (zeros 15) = padTweak .xor 5 (zeros 15) := ⟨by decide, rfl⟩

theorem witness_KeyLoadSplitsTheBlob :
    let n := Config.engine.aesKeySize.keyBytes
    (at_ .reset 0 (4 * n - 1)).len.toNat ≠ 4 * n ∧
    ((beyond .reset (4 * n)).len.toNat = 4 * n ∧
      Config.engine.dmemBytes < (beyond .reset (4 * n)).addr.toNat + 4 * n) ∧
    ((topmost .reset (4 * n)).len.toNat = 4 * n ∧
      (topmost .reset (4 * n)).addr.toNat + 4 * n ≤ Config.engine.dmemBytes) := by
  intro n
  have hn : 16 ≤ n ∧ n ≤ 32 := keyBytes_bounds
  have h1 := beyond_overruns .reset (n := 4 * n) (by omega) (by omega)
  have h2 := topmost_fits .reset (n := 4 * n) (by omega) (by omega)
  refine ⟨?_, ⟨h1.1, by omega⟩, h2.1, by omega⟩
  rw [at_len _ (by omega)]
  omega

/-- The clauses of the four commands that replace a buffer of n bytes. -/
theorem buffer_clauses (n : Nat) (h1 : 16 ≤ n) (h2 : n ≤ 31) :
    (loaded.keys = some someKey ∧ (topmost loaded n).keys = some someKey ∧
      (beyond loaded n).keys = some someKey) ∧
    ((beyond loaded n).len.toNat = n ∧
      Config.engine.dmemBytes < (beyond loaded n).addr.toNat + (beyond loaded n).len.toNat) ∧
    ((topmost loaded n).len.toNat = n ∧
      (topmost loaded n).addr.toNat + (topmost loaded n).len.toNat ≤ Config.engine.dmemBytes) := by
  have h3 := beyond_overruns loaded (n := n) (by omega) (by omega)
  have h4 := topmost_fits loaded (n := n) (by omega) (by omega)
  exact ⟨⟨rfl, rfl, rfl⟩, ⟨h3.1, by omega⟩, h4.1, by omega⟩

/-- For XTS_ENC and XTS_DEC alike: no key; 15 bytes; 2^24 + 1 bytes; 16 bytes out of range; in range. -/
theorem witness_XtsEncReplacesTheBuffer :
    State.reset.keys = none ∧
    ((at_ loaded 0 15).keys = some someKey ∧ (at_ loaded 0 15).len.toNat < 16) ∧
    ((at_ loaded 0 (2 ^ 24 + 1)).keys = some someKey ∧ 2 ^ 24 < (at_ loaded 0 (2 ^ 24 + 1)).len.toNat) ∧
    ((beyond loaded 16).keys = some someKey ∧ (beyond loaded 16).len.toNat = 16 ∧
      Config.engine.dmemBytes < (beyond loaded 16).addr.toNat + (beyond loaded 16).len.toNat) ∧
    ((topmost loaded 16).keys = some someKey ∧ (topmost loaded 16).len.toNat = 16 ∧
      (topmost loaded 16).addr.toNat + (topmost loaded 16).len.toNat ≤ Config.engine.dmemBytes) := by
  obtain ⟨h1, h2, h3⟩ := buffer_clauses 16 (by omega) (by omega)
  exact ⟨rfl, ⟨rfl, by decide⟩, ⟨rfl, by decide⟩, ⟨h1.2.2, h2⟩, h1.2.1, h3⟩

theorem witness_XtsDecReplacesTheBuffer :
    State.reset.keys = none ∧ (at_ loaded 0 0).len.toNat < 16 ∧
    2 ^ 24 < (at_ loaded 0 0xFFFFFFFF).len.toNat ∧
    Config.engine.dmemBytes < (beyond loaded 17).addr.toNat + (beyond loaded 17).len.toNat ∧
    ((topmost loaded 17).keys = some someKey ∧ (topmost loaded 17).len.toNat = 17 ∧
      (topmost loaded 17).addr.toNat + (topmost loaded 17).len.toNat ≤ Config.engine.dmemBytes) := by
  obtain ⟨h1, h2, h3⟩ := buffer_clauses 17 (by omega) (by omega)
  exact ⟨rfl, by decide, by decide, h2.2, h1.2.1, h3⟩

theorem witness_WholeBlocksAreEncryptedUnderTheirMasks :
    (zeros 32).length % 16 = 0 ∧ 16 * 1 + 16 ≤ (zeros 32).length := by decide

theorem witness_StealingFollowsItsRule :
    ((zeros 17).length = 16 * 1 + 1 ∧ 1 ≤ 1 ∧ 1 ≤ 15) ∧ ((zeros 47).length = 16 * 2 + 15 ∧ 1 ≤ 2) := by
  decide

theorem witness_XtsDecInvertsXtsEnc : 16 ≤ (zeros 16).length ∧ 16 ≤ (zeros 17).length := by decide

theorem witness_XtsRoundTripRestoresMemory :
    (topmost loaded 16).keysValid = true ∧ (topmost loaded 16).len.toNat = 16 ∧
    (topmost loaded 16).addr.toNat + (topmost loaded 16).len.toNat ≤ Config.engine.dmemBytes ∧
    ∃ i j : Instr, (i = .xtsEnc .key1 ∧ j = .xtsDec .key1) ∨ (i = .xtsDec .key1 ∧ j = .xtsEnc .key1) := by
  obtain ⟨h1, h2, h3⟩ := buffer_clauses 16 (by omega) (by omega)
  exact ⟨rfl, h3.1, h3.2, _, _, .inl ⟨rfl, rfl⟩⟩

/-- MIX twice: the permutation of this engine is the byte reversal. -/
theorem witness_MixPermutesTheBytes : ∀ i, Config.engine.mixPerm i = 15 - i := fun _ => rfl

/-- No key; 15 and 32 bytes; 31 bytes out of range and in range. -/
theorem witness_LdtEncReplacesTheBuffer :
    State.reset.keys = none ∧ (at_ loaded 0 15).len.toNat < 16 ∧ 31 < (at_ loaded 0 32).len.toNat ∧
    ((beyond loaded 31).keys = some someKey ∧ (beyond loaded 31).len.toNat = 31 ∧
      Config.engine.dmemBytes < (beyond loaded 31).addr.toNat + (beyond loaded 31).len.toNat) ∧
    ((topmost loaded 31).keys = some someKey ∧ (topmost loaded 31).len.toNat = 31 ∧
      (topmost loaded 31).addr.toNat + (topmost loaded 31).len.toNat ≤ Config.engine.dmemBytes) := by
  obtain ⟨h1, h2, h3⟩ := buffer_clauses 31 (by omega) (by omega)
  exact ⟨rfl, by decide, by decide, ⟨h1.2.2, h2⟩, h1.2.1, h3⟩

theorem witness_LdtDecReplacesTheBuffer :
    State.reset.keys = none ∧ (at_ loaded 0 0).len.toNat < 16 ∧
    31 < (at_ loaded 0 0xFFFFFFFF).len.toNat ∧
    ((beyond loaded 16).keys = some someKey ∧ (beyond loaded 16).len.toNat = 16 ∧
      Config.engine.dmemBytes < (beyond loaded 16).addr.toNat + (beyond loaded 16).len.toNat) ∧
    ((topmost loaded 16).keys = some someKey ∧ (topmost loaded 16).len.toNat = 16 ∧
      (topmost loaded 16).addr.toNat + (topmost loaded 16).len.toNat ≤ Config.engine.dmemBytes) := by
  obtain ⟨h1, h2, h3⟩ := buffer_clauses 16 (by omega) (by omega)
  exact ⟨rfl, by decide, by decide, ⟨h1.2.2, h2⟩, h1.2.1, h3⟩

theorem witness_LdtEncryptFollowsItsSteps :
    (16 ≤ (zeros 16).length ∧ (zeros 16).length ≤ 31) ∧
    (16 ≤ (zeros 31).length ∧ (zeros 31).length ≤ 31 ∧ 14 + 16 < (zeros 31).length) := by decide

theorem witness_TailOpIsItsOwnInverse : (zeros 0).length ≤ 15 ∧ (zeros 15).length ≤ 15 := by decide

theorem witness_LdtRoundTrip :
    (16 ≤ (zeros 16).length ∧ (zeros 16).length ≤ 31) ∧
    (16 ≤ (zeros 31).length ∧ (zeros 31).length ≤ 31) := by decide

theorem witness_LdtRoundTripRestoresMemory :
    (topmost loaded 31).keysValid = true ∧ (topmost loaded 31).len.toNat = 31 ∧
    (topmost loaded 31).addr.toNat + (topmost loaded 31).len.toNat ≤ Config.engine.dmemBytes ∧
    ∃ i j : Instr, (i = .ldtEnc .xor ∧ j = .ldtDec .xor) ∨ (i = .ldtDec .xor ∧ j = .ldtEnc .xor) := by
  obtain ⟨h1, h2, h3⟩ := buffer_clauses 31 (by omega) (by omega)
  exact ⟨rfl, h3.1, h3.2, _, _, .inl ⟨rfl, rfl⟩⟩

theorem witness_V0FieldsCutTheFrame :
    v0LengthLegal (zeros 32).length = true ∧ v0LengthLegal (zeros 47).length = true := by decide

theorem witness_V1FieldsCutTheSection :
    v1LengthLegal (zeros 36).length (saltBytes .short) 16 = true ∧
    v1LengthLegal (zeros 34).length (saltBytes .extended) 0 = true := by decide

/-- The tests both RESOLVE commands make after the one on the length, for a frame of n bytes. -/
theorem resolve_clauses (n : Nat) (h1 : 2 ≤ n) (h2 : n ≤ 4096) :
    ((beyond .reset n).len.toNat = n ∧
      Config.engine.dmemBytes < (beyond .reset n).addr.toNat + n) ∧
    (let s : State :=
       { topmost .reset n with credCount := BitVec.ofNat 32 (Config.engine.ncredMax + 1) }
     s.len.toNat = n ∧ s.addr.toNat + n ≤ Config.engine.dmemBytes ∧
       Config.engine.ncredMax < s.credCount.toNat) ∧
    (let s : State := { topmost .reset n with credCount := 1, credBase := 0xFFFFFFFF }
     s.len.toNat = n ∧ s.addr.toNat + n ≤ Config.engine.dmemBytes ∧
       s.credCount.toNat ≤ Config.engine.ncredMax ∧ 0 < s.credCount.toNat ∧
       Config.engine.dmemBytes < s.credBase.toNat + s.credCount.toNat * Config.engine.credStride) := by
  have h3 := beyond_overruns .reset (n := n) (by omega) (by omega)
  have h4 := topmost_fits .reset (n := n) (by omega) (by omega)
  have h5 := ncredMax_bounds
  have h6 := credStride_bounds
  have h7 := dmemBytes_bounds
  have h8 := toNat_ofNat (n := Config.engine.ncredMax + 1) (by omega)
  have h9 : ({ topmost .reset n with credCount := 1, credBase := 0xFFFFFFFF } : State).credCount.toNat =
    1 := rfl
  have h10 : ({ topmost .reset n with credCount := 1, credBase := 0xFFFFFFFF } : State).credBase.toNat =
    0xFFFFFFFF := rfl
  refine ⟨⟨h3.1, by omega⟩, ⟨h4.1, by show (topmost .reset n).addr.toNat + n ≤ _; omega, ?_⟩,
    h4.1, by show (topmost .reset n).addr.toNat + n ≤ _; omega, ?_⟩
  · show _ < (BitVec.ofNat 32 (Config.engine.ncredMax + 1)).toNat
    omega
  · rw [h9, h10]
    omega

theorem witness_ResolveV0TestsInOrder :
    (at_ .reset 0 31).len.toNat < 32 ∧ 47 < (at_ .reset 0 48).len.toNat ∧
    ((beyond .reset 47).len.toNat = 47 ∧
      Config.engine.dmemBytes < (beyond .reset 47).addr.toNat + 47) ∧
    ∃ s : State, s.len.toNat = 32 ∧ s.addr.toNat + 32 ≤ Config.engine.dmemBytes ∧
      s.credCount.toNat = 1 ∧ s.credCount.toNat ≤ Config.engine.ncredMax ∧
      Config.engine.dmemBytes < s.credBase.toNat + s.credCount.toNat * Config.engine.credStride := by
  have h := resolve_clauses 32 (by omega) (by omega)
  have h' := resolve_clauses 47 (by omega) (by omega)
  exact ⟨by decide, by decide, h'.1, _, h.2.2.1, h.2.2.2.1, rfl, h.2.2.2.2.1, h.2.2.2.2.2.2⟩

theorem witness_ResolveV0TestsInOrder_count :
    ∃ s : State, s.len.toNat = 32 ∧ s.addr.toNat + 32 ≤ Config.engine.dmemBytes ∧
      s.credCount.toNat = Config.engine.ncredMax + 1 := by
  have h := resolve_clauses 32 (by omega) (by omega)
  have h5 := ncredMax_bounds
  exact ⟨_, h.2.1.1, h.2.1.2.1, toNat_ofNat (by omega)⟩

/-- The least legal length of a section with a short salt and a MIC, and one byte less. -/
theorem witness_ResolveV1TestsInOrder :
    let least := 18 + saltBytes .short + trailerBytes Config.engine .mic
    (at_ .reset 0 (least - 1)).len.toNat < least ∧
    ((beyond .reset least).len.toNat = least ∧
      Config.engine.dmemBytes < (beyond .reset least).addr.toNat + least) ∧
    (∃ s : State, s.len.toNat = least ∧ s.addr.toNat + least ≤ Config.engine.dmemBytes ∧
      Config.engine.ncredMax < s.credCount.toNat) ∧
    ∃ s : State, s.len.toNat = least ∧ s.addr.toNat + least ≤ Config.engine.dmemBytes ∧
      s.credCount.toNat ≤ Config.engine.ncredMax ∧ 0 < s.credCount.toNat ∧
      Config.engine.dmemBytes < s.credBase.toNat + s.credCount.toNat * Config.engine.credStride := by
  intro least
  have hl : 20 ≤ least ∧ least ≤ 275 := by
    have := micLen_lt
    simp only [least, saltBytes, trailerBytes]
    omega
  have h := resolve_clauses least (by omega) (by omega)
  refine ⟨?_, h.1, ⟨_, h.2.1⟩, _, h.2.2⟩
  rw [at_len _ (by omega)]
  omega

/-! ### A credential that matches -/

/-- The plaintext a frame of 32 zero bytes has under the keys of the zero seed. -/
def plainV0 (E : Engine) : Bytes :=
  ldtDecrypt E (ldtKeyOf E (E.deriveV0Ldt (zeros 32)).toList) .default 0 (zeros 16)

/-- An entry with the zero seed and the expected value of that plaintext. -/
def entryV0 (E : Engine) : Bytes :=
  zeros 32 ++ (E.hmac E.macLen (E.deriveV0Hmac (zeros 32)) (slice (plainV0 E) 0 14)).toList ++
    zeros E.pubkeyBytes

/-- The frame at 0, the entry after it. -/
def matchV0 (E : Engine) (ptr : Word) : State :=
  { State.reset with
    dmem := Memory.writeBytes (Memory.writeBytes [] 0 (zeros 32)) 32 (entryV0 E),
    len := 32, credBase := 32, credCount := 1, arenaPtr := ptr }

theorem slice_first (a b : Bytes) {n : Nat} (h : a.length = n) : slice (a ++ b) 0 n = a := by
  simp [slice, ← h]

theorem slice_second (a b c : Bytes) {n m : Nat} (h : a.length = n) (h' : n + b.length = m) :
    slice (a ++ b ++ c) n m = b := by
  simp [slice, ← h, ← h']

theorem entryV0_length (E : Engine) : (entryV0 E).length = E.credStride := by
  simp only [entryV0, List.length_append, length_zeros, Vector.length_toList, Engine.credStride]

theorem matchV0_dmem (E : Engine) (ptr : Word) : (matchV0 E ptr).dmem =
    Memory.writeBytes (Memory.writeBytes [] 0 (zeros 32)) 32 (entryV0 E) := by
  simp only [matchV0]

theorem matchV0_buffer (E : Engine) (ptr : Word) : (matchV0 E ptr).buffer = zeros 32 := by
  have e : (matchV0 E ptr).buffer = Memory.readBytes (matchV0 E ptr).dmem 0 0 (zeros 32).length := rfl
  rw [e, matchV0_dmem, Memory.readBytes_writeBytes_outside _ _ _ _ _ _ (.inl (by decide)),
    Memory.readBytes_writeBytes]

theorem matchV0_entry (E : Engine) (ptr : Word) :
    (matchV0 E ptr).entryRead E 0 = credEntryOf E (entryV0 E) := by
  have e : (matchV0 E ptr).credBase.toNat + 0 * E.credStride = 32 := by
    rw [Nat.zero_mul]
    rfl
  rw [State.entryRead, e, matchV0_dmem, ← entryV0_length, Memory.readBytes_writeBytes]

theorem matchV0_try (E : Engine) (ptr : Word) :
    (matchV0 E ptr).tryV0 E .default 0 = some (plainV0 E) := by
  have e1 : (credEntryOf E (entryV0 E)).seed = zeros 32 := by
    simp only [credEntryOf, entryV0, List.append_assoc]
    exact slice_first _ _ (length_zeros 32)
  have e2 : (credEntryOf E (entryV0 E)).v0Exp =
      (E.hmac E.macLen (E.deriveV0Hmac (zeros 32)) (slice (plainV0 E) 0 14)).toList :=
    slice_second _ _ _ (length_zeros 32) (by simp only [Vector.length_toList])
  have e3 : (v0Fields (zeros 32)).ct = zeros 16 := by decide
  have e4 : (matchV0 E ptr).padval = 0 := rfl
  rw [State.tryV0, matchV0_buffer, matchV0_entry, attemptV0, e1, e2, e3, e4, v0Attempt]
  exact if_pos rfl

/-- The bytes of an entry, all of them written, as entry j of a table at address 0. -/
def tabled (j : Nat) (e : Bytes) : State :=
  { State.reset with dmem := Memory.writeBytes [] (j * e.length) e }

theorem tabled_get (j : Nat) (e : Bytes) (k : Nat) (hk : k < e.length) :
    Memory.get (tabled j e).dmem ((tabled j e).credBase.toNat + j * e.length + k) = e[k]? := by
  have h1 : (tabled j e).dmem = Memory.writeBytes [] (j * e.length) e := rfl
  have h2 : (tabled j e).credBase.toNat = 0 := rfl
  rw [h1, h2, Nat.zero_add, Memory.get_writeBytes_inside _ _ _ _ hk, List.getElem?_eq_getElem hk]

/-- The first entry of a table and the last of ten, the least NCRED_MAX. -/
theorem witness_V0MatchMeansTheMacAgrees (E : Engine) :
    (entryV0 E).length = 32 + E.macLen + E.pubkeyBytes ∧
    ∀ j ∈ [0, 9], ∀ k, k < (entryV0 E).length → Memory.get (tabled j (entryV0 E)).dmem
      ((tabled j (entryV0 E)).credBase.toNat + j * (entryV0 E).length + k) = (entryV0 E)[k]? :=
  ⟨entryV0_length E, fun j _ => tabled_get j _⟩

/-- The same table, since the clause names the entry's bytes alone. -/
theorem witness_V1MatchMeansTheTrailerVerifies (E : Engine) :
    (entryV0 E).length = 32 + E.macLen + E.pubkeyBytes ∧
    ∀ k, k < (entryV0 E).length → Memory.get (tabled 9 (entryV0 E)).dmem
      ((tabled 9 (entryV0 E)).credBase.toNat + 9 * (entryV0 E).length + k) = (entryV0 E)[k]? :=
  ⟨entryV0_length E, tabled_get 9 _⟩

theorem plainV0_length (E : Engine) : (plainV0 E).length = 16 := by
  rw [plainV0, length_ldtDecrypt _ _ _ _ _ (by decide) (by decide)]
  rfl

theorem matchV0_fit (ptr : Word) : (matchV0 Config.engine ptr).tablesFit Config.engine := by
  have h1 := dmemBytes_bounds
  have h2 := ncredMax_bounds
  have h3 := credStride_bounds
  refine ⟨?_, ?_, .inr ?_⟩
  · show 0 + 32 ≤ _
    omega
  · show 1 ≤ _
    omega
  · show 32 + 1 * _ ≤ _
    omega

/-- The plaintext fills the arena to its last byte. -/
theorem witness_ResolveV0DeliversTheFirstMatch :
    let s := matchV0 Config.engine 238
    32 ≤ s.len.toNat ∧ s.len.toNat ≤ 47 ∧ s.tablesFit Config.engine ∧ 0 < s.credCount.toNat ∧
    (∀ j, j < 0 → s.tryV0 Config.engine .default j = none) ∧
    s.tryV0 Config.engine .default 0 = some (plainV0 Config.engine) ∧
    s.arenaPtr.toNat + (plainV0 Config.engine).length ≤ Config.engine.arenaBytes :=
  ⟨by decide, by decide, matchV0_fit _, by decide, fun j hj => absurd hj (Nat.not_lt_zero j),
    matchV0_try _ _, by rw [plainV0_length]; decide⟩

/-- One byte too few is free. -/
theorem witness_FullArenaEndsTheLoop :
    let s := matchV0 Config.engine 239
    32 ≤ s.len.toNat ∧ s.len.toNat ≤ 47 ∧ s.tablesFit Config.engine ∧ 0 < s.credCount.toNat ∧
    (∀ j, j < 0 → s.tryV0 Config.engine .default j = none) ∧
    s.tryV0 Config.engine .default 0 = some (plainV0 Config.engine) ∧
    Config.engine.arenaBytes < s.arenaPtr.toNat + (plainV0 Config.engine).length :=
  ⟨by decide, by decide, matchV0_fit _, by decide, fun j hj => absurd hj (Nat.not_lt_zero j),
    matchV0_try _ _, by rw [plainV0_length]; decide⟩

/-- The fields of a section of zeros, whatever its trailer. -/
def zeroSection (trailer : Bytes) : V1Frame := ⟨0, zeros 2, 0, 0, [], trailer⟩

/-- What the provider makes of it under the zero seed. -/
def plainV1 (E : Engine) : Block × Vector Byte 0 :=
  E.v1Decrypt (zeros 32) (zeros 2) (E.computeNonce (zeros 2)) 0 []

/-- The MIC that verifies. -/
def micV1 (E : Engine) : Bytes :=
  (E.hmac E.micLen (E.deriveV1Mic (zeros 32) 2)
    (canon E 0 (zeroSection []) (plainV1 E).1 (plainV1 E).2.toList)).toList

/-- The section at 0, an entry of zeros at 1024. -/
def matchV1 (E : Engine) (ptr : Word) : State :=
  { State.reset with
    dmem := Memory.writeBytes (Memory.writeBytes [] 0 (zeros 20 ++ micV1 E)) 1024 (zeros E.credStride),
    len := BitVec.ofNat 32 (zeros 20 ++ micV1 E).length, credBase := 1024, credCount := 1, arenaPtr := ptr }

theorem micV1_length (E : Engine) : (micV1 E).length = E.micLen := Vector.length_toList

theorem sectionV1_length (E : Engine) : (zeros 20 ++ micV1 E).length = 20 + E.micLen := by
  rw [List.length_append, length_zeros, micV1_length]

theorem matchV1_dmem (E : Engine) (ptr : Word) : (matchV1 E ptr).dmem =
    Memory.writeBytes (Memory.writeBytes [] 0 (zeros 20 ++ micV1 E)) 1024 (zeros E.credStride) := by
  simp only [matchV1]

theorem matchV1_len (E : Engine) (ptr : Word) (h : E.micLen < 256) :
    (matchV1 E ptr).len.toNat = (zeros 20 ++ micV1 E).length := by
  have e : (matchV1 E ptr).len = BitVec.ofNat 32 (zeros 20 ++ micV1 E).length := rfl
  rw [e, toNat_ofNat (by rw [sectionV1_length]; omega)]

theorem matchV1_section (E : Engine) (ptr : Word) (h : E.micLen < 256) :
    (matchV1 E ptr).section1 E .short .mic = zeroSection (micV1 E) := by
  have hl := sectionV1_length E
  have hb : (matchV1 E ptr).buffer = zeros 20 ++ micV1 E := by
    have e : (matchV1 E ptr).buffer =
      Memory.readBytes (matchV1 E ptr).dmem 0 0 (matchV1 E ptr).len.toNat := rfl
    rw [e, matchV1_len E ptr h, matchV1_dmem,
      Memory.readBytes_writeBytes_outside _ _ _ _ _ _ (by omega), Memory.readBytes_writeBytes]
  have hz : zeros 20 = zeros 3 ++ zeros 16 ++ zeros 1 := by decide
  have e20 : 20 + E.micLen - E.micLen = 20 := by omega
  rw [State.section1, hb, v1Fields, hl]
  simp only [zeroSection, saltBytes, trailerBytes, V1Frame.mk.injEq, e20]
  refine ⟨rfl, rfl, ?_, rfl, by simp [slice], ?_⟩
  · rw [hz, List.append_assoc, slice_second _ _ _ (length_zeros 3) (by simp only [length_zeros])]
    decide
  · have := slice_second (zeros 20) (micV1 E) [] (length_zeros 20) (congrArg (20 + ·) (micV1_length E))
    rwa [List.append_nil] at this

theorem matchV1_try (E : Engine) (ptr : Word) (h : E.micLen < 256) : (matchV1 E ptr).tryV1 E .short .mic 0 =
    some (blockBytes (plainV1 E).1 ++ (plainV1 E).2.toList) := by
  have e : ((matchV1 E ptr).entryRead E 0).seed = zeros 32 := by
    have e : (matchV1 E ptr).credBase.toNat + 0 * E.credStride = 1024 := by
      rw [Nat.zero_mul]
      rfl
    have l : E.credStride = (zeros E.credStride).length := (length_zeros _).symm
    have z : zeros E.credStride = zeros 32 ++ zeros (E.macLen + E.pubkeyBytes) := by
      simp only [zeros, Engine.credStride, List.replicate_append_replicate, Nat.add_assoc]
    have r : Memory.readBytes (matchV1 E ptr).dmem 1 1024 E.credStride = zeros E.credStride := by
      conv => lhs; rw [l]
      rw [matchV1_dmem, Memory.readBytes_writeBytes]
    have r' : (matchV1 E ptr).entryRead E 0 = credEntryOf E (zeros E.credStride) := by
      rw [State.entryRead, e]
      exact congrArg _ r
    rw [r', credEntryOf, z]
    exact slice_first _ _ (length_zeros 32)
  have e2 : (matchV1 E ptr).advHdr = 0 := rfl
  rw [State.tryV1, matchV1_section E ptr h, attemptV1, v1AttemptMic, e, e2]
  exact if_pos rfl

theorem plainV1_length (E : Engine) :
    (blockBytes (plainV1 E).1 ++ (plainV1 E).2.toList).length = 16 := by
  rw [List.length_append, length_blockBytes, Vector.length_toList]

/-- The plaintext fills the arena to its last byte. -/
theorem witness_ResolveV1DeliversTheFirstMatch :
    let s := matchV1 Config.engine 238
    let pt := blockBytes (plainV1 Config.engine).1 ++ (plainV1 Config.engine).2.toList
    18 + saltBytes .short + trailerBytes Config.engine .mic ≤ s.len.toNat ∧
    s.tablesFit Config.engine ∧ 0 < s.credCount.toNat ∧
    (∀ j, j < 0 → s.tryV1 Config.engine .short .mic j = none) ∧
    s.tryV1 Config.engine .short .mic 0 = some pt ∧
    s.arenaPtr.toNat + pt.length ≤ Config.engine.arenaBytes := by
  have h1 := dmemBytes_bounds
  have h2 := ncredMax_bounds
  have h3 := credStride_bounds
  have h4 := micLen_lt
  refine ⟨?_, ⟨?_, ?_, .inr ?_⟩, Nat.zero_lt_one, fun j hj => absurd hj (Nat.not_lt_zero j),
    matchV1_try _ _ h4, ?_⟩
  · rw [matchV1_len _ _ h4, sectionV1_length]
    exact Nat.le_refl _
  · rw [matchV1_len _ _ h4, sectionV1_length]
    show 0 + _ ≤ _
    omega
  · show 1 ≤ _
    omega
  · show 1024 + 1 * _ ≤ _
    omega
  · rw [plainV1_length]
    decide

/-- One byte too few is free. -/
theorem witness_FullArenaEndsTheLoop_V1 :
    let s := matchV1 Config.engine 239
    let pt := blockBytes (plainV1 Config.engine).1 ++ (plainV1 Config.engine).2.toList
    18 + saltBytes .short + trailerBytes Config.engine .mic ≤ s.len.toNat ∧
    s.tablesFit Config.engine ∧ 0 < s.credCount.toNat ∧
    (∀ j, j < 0 → s.tryV1 Config.engine .short .mic j = none) ∧
    s.tryV1 Config.engine .short .mic 0 = some pt ∧
    Config.engine.arenaBytes < s.arenaPtr.toNat + pt.length := by
  have h1 := dmemBytes_bounds
  have h2 := ncredMax_bounds
  have h3 := credStride_bounds
  have h4 := micLen_lt
  refine ⟨?_, ⟨?_, ?_, .inr ?_⟩, Nat.zero_lt_one, fun j hj => absurd hj (Nat.not_lt_zero j),
    matchV1_try _ _ h4, ?_⟩
  · rw [matchV1_len _ _ h4, sectionV1_length]
    exact Nat.le_refl _
  · rw [matchV1_len _ _ h4, sectionV1_length]
    show 0 + _ ≤ _
    omega
  · show 1 ≤ _
    omega
  · show 1024 + 1 * _ ≤ _
    omega
  · rw [plainV1_length]
    decide

theorem deliver_matches (E : Engine) (pt : Bytes) (s : State)
    (room : s.arenaPtr.toNat + pt.length ≤ E.arenaBytes) : (deliver E pt s).matched = true := by
  rcases deliver_cases E pt s with ⟨h, -⟩ | ⟨-, h⟩
  · omega
  · rw [h]
    rfl

/-- A RESOLVE_V0 and a RESOLVE_V1 that match, as the statements about MATCH ask for. -/
theorem witness_DeliveriesAreShorterThanTheirFrames :
    (∃ t, exec (.resolveV0 .default) (matchV0 Config.engine 238) = .next t ∧ t.matched = true) ∧
    (∃ t, exec (.resolveV1 .short .mic) (matchV1 Config.engine 238) = .next t ∧ t.matched = true) := by
  obtain ⟨-, -, f, c, n, m, r⟩ := witness_ResolveV0DeliversTheFirstMatch
  obtain ⟨l', f', c', n', m', r'⟩ := witness_ResolveV1DeliversTheFirstMatch
  simp only [State.tryV1, State.section1] at n' m'
  refine ⟨⟨_, exec_eq _ _, ?_⟩, _, exec_eq _ _, ?_⟩
  · rw [result, resolveV0, resolve_runs _ _ _ _ _ (by decide) f,
      resolveLoop_match (loopEntry_recordV0 ..) c n m]
    exact deliver_matches _ _ _ r
  · rw [result, resolveV1, resolve_runs _ _ _ _ _ (by simp only [v1LengthLegal, decide_eq_true_eq]; exact l') f',
      resolveLoop_match (loopEntry_recordV1 ..) c' n' m']
    exact deliver_matches _ _ _ r'

theorem witness_DeliveriesAreConsecutive :
    ∃ i s t, exec i s = .next t ∧ t.matched = true :=
  let ⟨t, h⟩ := witness_DeliveriesAreShorterThanTheirFrames.1
  ⟨_, _, t, h⟩

end Sys2Proof.Tests
end

section
/-! PROOFS. The host's accesses to CMD (`10_state.md` R23). -/

namespace Sys2Proof.Machine

/-! ### Registers of the map -/

/-- A read at a register's offset gives that register. -/
@[simp] theorem State.registerValue_offset (s : State) (r : Reg) :
    s.registerValue r.offset = s.readReg r := by
  simp only [State.registerValue, Reg.at?_offset]

theorem hostWriteReg_of_panic {s : State} (p : s.panic = true) (off : Nat) (v : Word) :
    hostWriteReg off v s = .next s := by
  rw [hostWriteReg, if_pos p]

theorem hostWriteReg_cmd {s : State} (p : s.panic = false) (w : Word) :
    hostWriteReg Reg.cmd.offset w s = execWord w s := by
  rw [hostWriteReg, if_neg (by simp [p]), Reg.at?_offset]

theorem execWord_of_error {w : Word} {err : DecodeError} (d : decodeWord w = .error err) (s : State) :
    execWord w s = .next (s.raise .illegalCommand w) := by
  simp only [execWord, d]

/-! ### Steps -/

/-- A read of a register of the map. -/
theorem step_readReg_offset {s : State} {r : Reg} {rest : List HostStep}
    (e : s.host = .readReg r.offset :: rest) :
    step s = .next { s with host := rest, readData := .word (s.readReg r) } := by
  rw [step_readReg e r.offset_lt r.offset_aligned, State.registerValue_offset]

/-- In the panic state a write in the register space is ignored. -/
theorem step_writeReg_of_panic {s : State} {off : Nat} {v : Word} {rest : List HostStep}
    (e : s.host = .writeReg off v :: rest) (p : s.panic = true) (h1 : off < 0x100)
    (h2 : off % 4 = 0) : step s = .next { s with host := rest } := by
  rw [step_hostWriteReg e h1 h2]
  exact hostWriteReg_of_panic (s := { s with host := rest }) p off v

/-- A write of an illegal word to CMD ends in the error entry. -/
theorem step_illegal {s : State} {w : Word} {err : DecodeError} {rest : List HostStep}
    (e : s.host = .writeReg Reg.cmd.offset w :: rest) (p : s.panic = false)
    (d : decodeWord w = .error err) :
    step s = .next (State.raise { s with host := rest } .illegalCommand w) := by
  calc step s
      = hostWriteReg Reg.cmd.offset w { s with host := rest } :=
        step_hostWriteReg e Reg.cmd.offset_lt Reg.cmd.offset_aligned
    _ = execWord w { s with host := rest } :=
        hostWriteReg_cmd (s := { s with host := rest }) p w
    _ = .next (State.raise { s with host := rest } .illegalCommand w) := execWord_of_error d _

/-- Settles O5: the legal, the illegal and the ignored write and the read of CMD, each by its rule
above or in the laws of `step`. -/
theorem writeOfCmdRunsTheCommand : Obligations.WriteOfCmdRunsTheCommand := by
  intro s w rest
  refine ⟨fun e p => ⟨fun i d => ?legal, fun err d => ?illegal⟩, fun e p => ?ignored, fun e => ?read⟩
  case legal => exact step_command e p d
  case illegal => exact step_illegal e p d
  case ignored => exact step_writeReg_of_panic e p Reg.cmd.offset_lt Reg.cmd.offset_aligned
  case read => exact step_readReg_offset (r := .cmd) e

end Sys2Proof.Machine
end

section
/-! PROOFS. The legal command words (`30_encoding.md` R94). -/

namespace Sys2Proof

/-! ### The flag bits of a command -/

@[simp] theorem padderOfBit_beq_xor (b : Bool) : (padderOfBit b == .xor) = b := by
  cases b <;> rfl

@[simp] theorem slotOfBit_beq_key2 (b : Bool) : (slotOfBit b == .key2) = b := by
  cases b <;> rfl

@[simp] theorem saltOfBit_beq_extended (b : Bool) : (saltOfBit b == .extended) = b := by
  cases b <;> rfl

@[simp] theorem modeOfBit_beq_signature (b : Bool) : (modeOfBit b == .signature) = b := by
  cases b <;> rfl

/-! ### A legal word is the encoding of its command -/

/-- Reading a command from fields and encoding it keeps the opcode and the flags the opcode lists, and
clears the other flags and the reserved bits. -/
theorem encodeFields_of_commandOf {f : Fields} {i : Instr} (h : commandOf f = some i) :
    ∃ l, listedFlags f.op = some l ∧ encodeFields i =
      ⟨f.op, f.ksel && l.ksel, f.psel && l.psel, f.salt16 && l.salt16, f.sigmode && l.sigmode, 0⟩ := by
  unfold commandOf at h
  split at h <;> cases h
  all_goals
    next hop =>
      rw [listedFlags, hop]
      exact ⟨_, rfl, by simp [encodeFields, BitVec.toNat_eq, hop]⟩

/-- The three checks leave nothing that encoding clears. -/
theorem eq_encodeFields_of_decodeFields {f : Fields} {i : Instr} (h : decodeFields f = .ok i) :
    f = encodeFields i := by
  obtain ⟨hreserved, hcommand, hflags⟩ := decodeFields_ok h
  obtain ⟨l, hlisted, hencoded⟩ := encodeFields_of_commandOf hcommand
  have reserved_zero : f.reserved = 0 := by simpa [Fields.reservedClear] using hreserved
  have flags_listed : (((f.ksel → l.ksel) ∧ (f.psel → l.psel)) ∧ (f.salt16 → l.salt16)) ∧
      (f.sigmode → l.sigmode) := by
    simpa [Fields.flagsListed, hlisted, imp_iff_not_or] using hflags
  obtain ⟨⟨⟨hksel, hpsel⟩, hsalt16⟩, hsigmode⟩ := flags_listed
  rw [hencoded, ← reserved_zero, ← Bool.eq_self_and.mpr hksel, ← Bool.eq_self_and.mpr hpsel,
    ← Bool.eq_self_and.mpr hsalt16, ← Bool.eq_self_and.mpr hsigmode]

/-- `Decode` and `Encode` agree on words (`30_encoding.md` R97). -/
theorem decodeWord_eq_ok_iff {w : Word} {i : Instr} : decodeWord w = .ok i ↔ w = encodeWord i := by
  constructor
  · intro h
    calc w = packFields (fieldsOf w) := (packFields_fieldsOf w).symm
      _ = encodeWord i := congrArg packFields (eq_encodeFields_of_decodeFields h)
  · rintro rfl
    rw [decodeWord, encodeWord, fieldsOf_packFields, decodeFields_encodeFields]

/-! ### The list of the legal words -/

/-- A list of words and commands that holds encodings only is checked pair by pair. -/
theorem eq_encodeWord_of_mem {table : List (Word × Instr)}
    (check : table.all (fun p => p.1 == encodeWord p.2) = true) {w : Word} {i : Instr}
    (h : (w, i) ∈ table) : w = encodeWord i :=
  beq_iff_eq.mp (List.all_eq_true.mp check (w, i) h)

/-- Settles O1: each pair listed is a command after its encoding, and every command has its pair. -/
theorem legalWordsAreTheTwentyOne : Obligations.LegalWordsAreTheTwentyOne := by
  intro w i
  rw [decodeWord_eq_ok_iff]
  constructor
  case mpr => exact eq_encodeWord_of_mem (by decide)
  case mp =>
    rintro rfl
    cases i with
    | pad p | ldtEnc p | ldtDec p | resolveV0 p => cases p <;> decide
    | xtsEnc k | xtsDec k => cases k <;> decide
    | resolveV1 l m => cases l <;> cases m <;> decide
    | keyLoad | twkStep | twkAdv | mix | arenaReset => decide

end Sys2Proof
end

section
/-! PROOFS. Tweak arithmetic and the commands TWK_STEP and TWK_ADV (`40_tweak.md`). -/

namespace Sys2Proof.Machine

/-! ### Bits of a block -/

theorem getLsbD_byteAt {w : Nat} (v : BitVec w) (i : Nat) {k : Nat} (hk : k < 8) :
    (byteAt v i).getLsbD k = v.getLsbD (8 * i + k) := by
  simp [byteAt, hk]

/-- The top bit of a block is the top bit of its byte 15. -/
theorem msb_eq_getLsbD_byteAt (t : Block) : t.msb = (byteAt t 15).getLsbD 7 := by
  rw [getLsbD_byteAt t 15 (by decide), BitVec.msb_eq_getLsbD_last]

theorem toNat_shiftLeft_one (t : Block) : (t <<< 1).toNat = 2 * t.toNat % 2 ^ 128 := by
  rw [BitVec.toNat_shiftLeft, Nat.shiftLeft_eq, Nat.mul_comm, pow_one]

/-- A carry is bit 0 of its byte and no other. -/
theorem getLsbD_carry (c : Prop) [Decidable c] (k : Nat) :
    (if c then 1 else 0 : Byte).getLsbD k = (decide (k = 0) && decide c) := by
  by_cases h : c <;> simp [h]

/-- A block shifted left by one, byte by byte: the top bit of the byte below comes in. -/
theorem byteAt_shiftLeft_one (t : Block) {i : Nat} (hi : i < 16) :
    byteAt (t <<< 1) i = (byteAt t i <<< 1) |||
      (if 0 < i ∧ (byteAt t (i - 1)).getLsbD 7 = true then 1 else 0) := by
  apply BitVec.eq_of_getLsbD_eq
  intro k hk
  have inside : 8 * i + k < 128 := by omega
  rw [getLsbD_byteAt _ i hk, BitVec.getLsbD_shiftLeft, decide_eq_true inside, BitVec.getLsbD_or,
    BitVec.getLsbD_shiftLeft, getLsbD_carry]
  cases k with
  | succ k =>
    have same_byte : (byteAt t i).getLsbD k = t.getLsbD (8 * i + k) := getLsbD_byteAt t i (by omega)
    simp [same_byte, hk, ← Nat.add_assoc]
  | zero =>
    cases i with
    | zero => simp
    | succ i =>
      have byte_below : (byteAt t i).getLsbD 7 = t.getLsbD (8 * i + 7) := getLsbD_byteAt t i (by decide)
      have position : 8 * (i + 1) - 1 = 8 * i + 7 := by omega
      simp [-BitVec.getLsbD_eq_getElem, byte_below, position]

/-- The reduction constant lies in byte 0 (`40_tweak.md` R120). -/
theorem byteAt_setWidth (g : Byte) (i : Nat) :
    byteAt (g.setWidth 128) i = if i = 0 then g else 0 := by
  apply BitVec.eq_of_getLsbD_eq
  intro k hk
  rw [getLsbD_byteAt _ i hk, BitVec.getLsbD_setWidth]
  cases i with
  | zero => simp [show k < 128 by omega]
  | succ i =>
    have beyond : g.getLsbD (8 * (i + 1) + k) = false := BitVec.getLsbD_of_ge _ _ (by omega)
    simp [beyond]

/-! ### Doubling -/

theorem byteAt_double (g : Byte) (t : Block) (i : Nat) :
    byteAt (double g t) i = byteAt (t <<< 1) i ^^^ (if i = 0 ∧ t.msb = true then g else 0) := by
  rw [double, byteAt_xor]
  by_cases carry : t.msb = true
  · simp only [carry, if_true, and_true, byteAt_setWidth]
  · simp only [carry, and_false, if_false, byteAt_zero, Bool.false_eq_true]

theorem toNat_double (g : Byte) (t : Block) :
    (double g t).toNat = (2 * t.toNat % 2 ^ 128) ^^^ (if 2 ^ 127 ≤ t.toNat then g.toNat else 0) := by
  rw [double, BitVec.toNat_xor, toNat_shiftLeft_one]
  have carry : t.msb = true ↔ 2 ^ 127 ≤ t.toNat := by
    rw [BitVec.msb_eq_decide, decide_eq_true_eq]
  by_cases h : 2 ^ 127 ≤ t.toNat
  · rw [if_pos h, if_pos (carry.mpr h), BitVec.toNat_setWidth_of_le (by decide)]
  · rw [if_neg h, if_neg (mt carry.mp h), show (0 : Block).toNat = 0 from rfl]

/-- Linear, because the carry of an XOR is the XOR of the carries (`40_tweak.md` R123 (b)). -/
theorem double_xor (g : Byte) (a b : Block) : double g (a ^^^ b) = double g a ^^^ double g b := by
  have carry_xor : (if (a ^^^ b).msb then g.setWidth 128 else 0) =
      (if a.msb then g.setWidth 128 else 0) ^^^ (if b.msb then g.setWidth 128 else 0) := by
    rw [BitVec.msb_xor]
    cases a.msb <;> cases b.msb <;> simp
  rw [double, double, double, BitVec.shiftLeft_xor_distrib, carry_xor]
  ac_rfl

theorem double_zero (g : Byte) : double g 0 = 0 := by simp [double]

/-- Bit 0 of the double shows the carry when the constant is odd. -/
theorem getLsbD_double_zero {g : Byte} (odd : g.getLsbD 0 = true) (t : Block) :
    (double g t).getLsbD 0 = t.msb := by
  cases h : t.msb <;> simp [double, h, -BitVec.getLsbD_eq_getElem, odd]

/-- With an odd constant only the zero block doubles to zero: there is no carry, hence no bit is lost. -/
theorem eq_zero_of_double_eq_zero {g : Byte} (odd : g.getLsbD 0 = true) {t : Block}
    (h : double g t = 0) : t = 0 := by
  have no_carry : t.msb = false := by rw [← getLsbD_double_zero odd, h]; rfl
  have shifted : t <<< 1 = 0 := by simpa [double, no_carry] using h
  have lost_nothing : 2 * t.toNat < 2 ^ 128 := BitVec.msb_eq_false_iff_two_mul_lt.mp no_carry
  have doubled : 2 * t.toNat % 2 ^ 128 = 0 := by rw [← toNat_shiftLeft_one, shifted]; rfl
  have zero : t.toNat = 0 := by omega
  exact BitVec.eq_of_toNat_eq zero

theorem double_injective {g : Byte} (odd : g.getLsbD 0 = true) : Function.Injective (double g) := by
  intro a b h
  have kernel : a ^^^ b = 0 := eq_zero_of_double_eq_zero odd (by rw [double_xor, h, BitVec.xor_self]; rfl)
  exact BitVec.xor_eq_zero_iff.mp kernel

/-! ### Advancing -/

theorem advance_add (g : Byte) (t : Block) (a b : Nat) :
    advance g t (a + b) = advance g (advance g t a) b := by
  simp only [advance_eq_iterate, Nat.add_comm a b, Function.iterate_add_apply]

theorem advance_of_zero (g : Byte) (k : Nat) : advance g 0 k = 0 := by
  rw [advance_eq_iterate, Function.iterate_fixed (double_zero g)]

/-! ### The commands -/

/-- What TWK_STEP and TWK_ADV change beside TWEAK: the flags of the success entry. -/
theorem setTweak_succeed (s : State) (v : Block) : (s.setTweak v).succeed =
    { s with tweak := v, done := true, matched := false, err := .ok, errinfo := 0 } := rfl

@[simp] theorem twkStep_tweak (E : Engine) (s : State) :
    (twkStep E s).tweak = double E.gfReduce s.tweak := rfl

@[simp] theorem twkAdv_tweak (E : Engine) (s : State) :
    (twkAdv E s).tweak = advance E.gfReduce s.tweak s.blkidx.toNat := rfl

/-- TWK_STEP n times doubles TWEAK n times. -/
theorem iterate_twkStep_tweak (E : Engine) (n : Nat) (s : State) :
    ((twkStep E)^[n] s).tweak = (double E.gfReduce)^[n] s.tweak :=
  Function.Semiconj.iterate_right (f := State.tweak) (twkStep_tweak E) n s

/-- Settles O26: TWK_STEP stores the double, whose value is computed in `toNat_double`. -/
theorem twkStepDoublesTheTweak : Obligations.TwkStepDoublesTheTweak := by
  refine ⟨by decide, fun s => ⟨twkStep Config.engine s, exec_eq .twkStep s, ?frame, ?value⟩⟩
  case frame => exact setTweak_succeed s _
  case value => rw [twkStep_tweak, toNat_double]

/-- Settles O27: a byte of the shifted block and a byte of the reduction constant, XORed. -/
theorem doublingByteByByte : Obligations.DoublingByteByByte := by
  intro g t i hi c carryIn
  rw [byteAt_double, byteAt_shiftLeft_one t hi, msb_eq_getLsbD_byteAt]

/-- Settles O28: the laws above; on the finite set of blocks an injection is a bijection. -/
theorem advanceLaws : Obligations.AdvanceLaws := fun g =>
  ⟨advance_add g, double_xor g, advance_of_zero g,
    fun odd => Finite.injective_iff_bijective.mp (double_injective odd)⟩

/-- Settles O29: both TWK_ADV and BLKIDX TWK_STEP commands leave the iterated double in TWEAK. -/
theorem twkAdvEqualsRepeatedTwkStep : Obligations.TwkAdvEqualsRepeatedTwkStep := by
  refine ⟨by decide, fun s => ⟨twkAdv Config.engine s, (twkStep Config.engine)^[s.blkidx.toNat] s,
    exec_eq .twkAdv s, ?frame, rfl, ?steps, ?doubled⟩⟩
  case frame => exact setTweak_succeed s _
  case steps => rw [twkAdv_tweak, iterate_twkStep_tweak, advance_eq_iterate]
  case doubled => rw [twkAdv_tweak, advance_eq_iterate]

end Sys2Proof.Machine
end


section
/-! PROOFS. Keys and the XTS data-unit cipher, and the commands KEY_LOAD, XTS_ENC and XTS_DEC
(`41_xts.md`). -/

namespace Sys2Proof.Machine

/-! ### Pieces of byte strings -/

/-- A slice of what a read gives is what a shorter read of the same number gives. -/
theorem slice_readBytes (m : Memory) (d a : Nat) {n i j : Nat} (h : j ≤ n) :
    slice (Memory.readBytes m d a n) i j = Memory.readBytes m d (a + i) (j - i) := by
  apply List.ext_getElem
  case hl =>
    simp only [length_slice, Memory.length_readBytes]
    omega
  case h =>
    intro k _ _
    simp only [slice, List.getElem_take, List.getElem_drop, Memory.getElem_readBytes, Nat.add_assoc]

/-- A block laid out at index j of a byte string is its block j. -/
theorem unitBlock_append_blockBytes {front : Bytes} {j : Nat} (h : front.length = 16 * j)
    (b : Block) (rest : Bytes) : unitBlock (front ++ (blockBytes b ++ rest)) j = b := by
  rw [unitBlock, slice, List.drop_left' h, Nat.add_sub_cancel_left,
    List.take_left' (length_blockBytes b), blockOfBytes_blockBytes]

theorem unitBlock_blockBytes_zero (b : Block) : unitBlock (blockBytes b) 0 = b := by
  simpa using unitBlock_append_blockBytes (front := []) (j := 0) rfl b []

/-! ### Masks -/

theorem mask_eq_iterate (E : Engine) (x : XtsKey) (t : Block) (j : Nat) :
    mask E x t j = (double E.gfReduce)^[j] (E.aes x.tweak t) :=
  advance_eq_iterate _ _ j

/-- The rule of one block with the mask written out (`41_xts.md` R143, R144). -/
theorem blkEnc_mask (E : Engine) (x : XtsKey) (t : Block) (j : Nat) (b : Block) :
    blkEnc E x.primary (mask E x t j) b =
      E.aes x.primary (b ^^^ (double E.gfReduce)^[j] (E.aes x.tweak t)) ^^^
        (double E.gfReduce)^[j] (E.aes x.tweak t) := by
  rw [← mask_eq_iterate]
  rfl

/-! ### Data units, by the two cases of `41_xts.md` R145 -/

theorem xtsEncUnit_of_whole (E : Engine) (x : XtsKey) (t : Block) {u : Bytes} {m : Nat}
    (h : u.length = 16 * m) : xtsEncUnit E x t u = encBlocks E x t u m := by
  have whole : u.length % 16 = 0 := by omega
  have blocks : u.length / 16 = m := by omega
  simp only [xtsEncUnit, whole, blocks, if_true]

theorem xtsDecUnit_of_whole (E : Engine) (x : XtsKey) (t : Block) {u : Bytes} {m : Nat}
    (h : u.length = 16 * m) : xtsDecUnit E x t u = decBlocks E x t u m := by
  have whole : u.length % 16 = 0 := by omega
  have blocks : u.length / 16 = m := by omega
  simp only [xtsDecUnit, whole, blocks, if_true]

theorem xtsEncUnit_of_partial (E : Engine) (x : XtsKey) (t : Block) {u : Bytes} {m b : Nat}
    (h : u.length = 16 * m + b) (hb : 1 ≤ b) (hb' : b ≤ 15) :
    xtsEncUnit E x t u = encBlocks E x t u (m - 1) ++ encSteal E x t u m b := by
  have further : u.length % 16 = b := by omega
  have blocks : u.length / 16 = m := by omega
  simp only [xtsEncUnit, further, blocks, if_neg (show ¬ b = 0 by omega)]

/-- Block j of a byte string that begins with n encrypted blocks, or with n of them and more. -/
theorem unitBlock_encBlocks_append (E : Engine) (x : XtsKey) (t : Block) (u rest : Bytes)
    {n j : Nat} (h : j < n) : unitBlock (encBlocks E x t u n ++ rest) j =
      blkEnc E x.primary (mask E x t j) (unitBlock u j) :=
  unitBlock_flatMap_append _ n j rest h

theorem encBlocks_one (E : Engine) (x : XtsKey) (t b : Block) :
    encBlocks E x t (blockBytes b) 1 = blockBytes (xtsEncBlock E x t b) := by
  simp [encBlocks, List.range_one, unitBlock_blockBytes_zero, xtsEncBlock, mask]

theorem decBlocks_one (E : Engine) (x : XtsKey) (t b : Block) :
    decBlocks E x t (blockBytes b) 1 = blockBytes (xtsDecBlock E x t b) := by
  simp [decBlocks, List.range_one, unitBlock_blockBytes_zero, xtsDecBlock, mask]

/-- Settles O37: a unit of one block is whole, and its mask is advanced no step. -/
theorem oneBlockNeedsNoDoubling : Obligations.OneBlockNeedsNoDoubling := by
  intro E x t b
  have one : (blockBytes b).length = 16 * 1 := length_blockBytes b
  exact ⟨(xtsEncUnit_of_whole E x t one).trans (encBlocks_one E x t b),
    (xtsDecUnit_of_whole E x t one).trans (decBlocks_one E x t b), rfl⟩

/-- Settles O35: the unit is `encBlocks`, whose blocks are read off one by one. -/
theorem wholeBlocksAreEncryptedUnderTheirMasks :
    Obligations.WholeBlocksAreEncryptedUnderTheirMasks := by
  intro E x t u whole
  obtain ⟨m, len⟩ := Nat.dvd_of_mod_eq_zero whole
  rw [xtsEncUnit_of_whole E x t len]
  refine ⟨by rw [length_encBlocks, len], fun j inside => ?block⟩
  case block =>
    have := unitBlock_encBlocks_append E x t u [] (show j < m by omega)
    rwa [List.append_nil, blkEnc_mask] at this

/-- Settles O36: the result is m - 1 encrypted blocks, then a block, then b bytes. -/
theorem stealingFollowsItsRule : Obligations.StealingFollowsItsRule := by
  intro E x t u m b len hm hb hb' T enc c cc
  have henc (j : Nat) (B : Block) : enc j B = blkEnc E x.primary (mask E x t j) B :=
    (blkEnc_mask E x t j B).symm
  have pieces : c = encBlocks E x t u (m - 1) ++
      (blockBytes (enc m (blockOfBytes (u.drop (16 * m) ++ cc.drop b))) ++ cc.take b) := by
    simp only [c, cc, henc]
    exact xtsEncUnit_of_partial E x t len hb hb'
  have front := length_encBlocks E x t u (m - 1)
  refine ⟨?length, fun j hj => ?block, ?last, ?stolen⟩
  case length => exact length_xtsEncUnit E x t u (by omega)
  case block => rw [pieces, unitBlock_encBlocks_append E x t u _ (by omega), henc]
  case last =>
    rw [pieces, ← List.append_assoc]
    exact List.drop_left' (by rw [List.length_append, front, length_blockBytes]; omega)
  case stolen => rw [pieces, unitBlock_append_blockBytes front]

/-! ### KEY_LOAD -/

theorem ldtKeyBytes_eq (k : AesKeySize) : k.ldtKeyBytes = 4 * k.keyBytes := by
  simp only [AesKeySize.ldtKeyBytes, AesKeySize.xtsKeyBytes]
  omega

/-- The two halves of an XtsKey in memory (`41_xts.md` R140). -/
theorem xtsKeyOf_readBytes (E : Engine) (m : Memory) (d a : Nat) :
    xtsKeyOf E (Memory.readBytes m d a E.aesKeySize.xtsKeyBytes) =
      ⟨Memory.readBytes m d a E.aesKeySize.keyBytes,
        Memory.readBytes m d (a + E.aesKeySize.keyBytes) E.aesKeySize.keyBytes⟩ := by
  rw [xtsKeyOf, AesKeySize.xtsKeyBytes, slice_readBytes _ _ _ (by omega),
    slice_readBytes _ _ _ (by omega), Nat.sub_zero, Nat.add_zero, Nat.two_mul, Nat.add_sub_cancel]

/-- The four quarters of a key blob in memory (`41_xts.md` R140, R141). -/
theorem ldtKeyOf_readBytes (E : Engine) (m : Memory) (d a : Nat) :
    let n := E.aesKeySize.keyBytes
    let part (i : Nat) : Bytes := Memory.readBytes m d (a + i * n) n
    ldtKeyOf E (Memory.readBytes m d a E.aesKeySize.ldtKeyBytes) =
      ⟨⟨part 0, part 1⟩, ⟨part 2, part 3⟩⟩ := by
  intro n part
  have half : E.aesKeySize.xtsKeyBytes = 2 * n := rfl
  have last : a + 2 * n + n = a + 3 * n := by omega
  rw [ldtKeyOf, AesKeySize.ldtKeyBytes, slice_readBytes _ _ _ (by omega),
    slice_readBytes _ _ _ (by omega), Nat.sub_zero, Nat.two_mul, Nat.add_sub_cancel,
    xtsKeyOf_readBytes, xtsKeyOf_readBytes, half, last]
  simp only [part, Nat.zero_mul, Nat.one_mul, Nat.add_zero, n]

theorem keyLoad_of_badLength {E : Engine} {s : State}
    (h : s.len.toNat ≠ E.aesKeySize.ldtKeyBytes) :
    keyLoad E s = s.raise .badKeyLength s.len := by
  rw [keyLoad, if_pos h]

theorem keyLoad_of_outOfRange {E : Engine} {s : State}
    (len : s.len.toNat = E.aesKeySize.ldtKeyBytes)
    (h : E.dmemBytes < s.addr.toNat + E.aesKeySize.ldtKeyBytes) :
    keyLoad E s = s.raiseRange E s.addr := by
  rw [keyLoad, if_neg (not_not.mpr len), if_pos ((outOfRange_iff ..).mpr h)]

theorem keyLoad_of_inRange {E : Engine} {s : State} (len : s.len.toNat = E.aesKeySize.ldtKeyBytes)
    (h : s.addr.toNat + E.aesKeySize.ldtKeyBytes ≤ E.dmemBytes) :
    keyLoad E s = (s.nextDraw.setKeys (ldtKeyOf E s.buffer)).succeed := by
  rw [keyLoad, if_neg (not_not.mpr len), if_neg (by simpa using h)]

/-- What a successful KEY_LOAD changes: the slots, the draw counter and the flags of success. -/
theorem setKeys_succeed (s : State) (k : LdtKey) : (s.nextDraw.setKeys k).succeed =
    { s with keys := some k, draws := s.draws + 1, done := true, matched := false, err := .ok,
             errinfo := 0 } := rfl

/-- Settles O32: the two tests, and the blob cut in halves and each half in halves. -/
theorem keyLoadSplitsTheBlob : Obligations.KeyLoadSplitsTheBlob := by
  refine ⟨by decide, fun s => ?_⟩
  intro n part
  have quarters : 4 * n = Config.engine.aesKeySize.ldtKeyBytes := (ldtKeyBytes_eq _).symm
  rw [quarters]
  simp only [exec_eq_next]
  refine ⟨keyLoad_of_badLength, keyLoad_of_outOfRange, fun len fits => ?loaded⟩
  case loaded =>
    have blob : ldtKeyOf Config.engine s.buffer = ⟨⟨part 0, part 1⟩, ⟨part 2, part 3⟩⟩ := by
      rw [State.buffer, len]
      exact ldtKeyOf_readBytes Config.engine s.dmem s.draws s.addr.toNat
    rw [result, keyLoad_of_inRange len fits, setKeys_succeed, blob]

/-! ### XTS_ENC and XTS_DEC: one rule for both (`41_xts.md` R150) -/

section

variable {E : Engine} {f : XtsKey → Block → Bytes → Bytes} {k : KeySlot} {s : State} {ks : LdtKey}

theorem xtsCommand_of_noKeys (h : s.keys = none) :
    xtsCommand E f k s = s.raise .keyNotLoaded 0 := by
  simp only [xtsCommand, h]

theorem xtsCommand_of_short (loaded : s.keys = some ks) (h : s.len.toNat < 16) :
    xtsCommand E f k s = s.raise .dataTooShort s.len := by
  simp only [xtsCommand, loaded, if_pos h]

theorem xtsCommand_of_long (loaded : s.keys = some ks) (h : 2 ^ 24 < s.len.toNat) :
    xtsCommand E f k s = s.raise .dataTooLong s.len := by
  simp only [xtsCommand, loaded, if_neg (show ¬ s.len.toNat < 16 by omega), if_pos h]

theorem xtsCommand_of_outOfRange (loaded : s.keys = some ks) (least : 16 ≤ s.len.toNat)
    (most : s.len.toNat ≤ 2 ^ 24) (h : E.dmemBytes < s.addr.toNat + s.len.toNat) :
    xtsCommand E f k s = s.raiseRange E s.addr := by
  simp only [xtsCommand, loaded, if_neg (Nat.not_lt.mpr least), if_neg (Nat.not_lt.mpr most),
    if_pos ((outOfRange_iff ..).mpr h)]

theorem xtsCommand_of_inRange (loaded : s.keys = some ks) (least : 16 ≤ s.len.toNat)
    (most : s.len.toNat ≤ 2 ^ 24) (h : s.addr.toNat + s.len.toNat ≤ E.dmemBytes) :
    xtsCommand E f k s =
      (s.nextDraw.writeDmem s.addr.toNat (f (ks.select k) s.tweak s.buffer)).succeed := by
  simp only [xtsCommand, loaded, if_neg (Nat.not_lt.mpr least), if_neg (Nat.not_lt.mpr most),
    (outOfRange_eq_false ..).mpr h, Bool.false_eq_true, if_false]

end

/-- What a successful replacement of the buffer changes: DMEM, the draw counter and the flags of
success. -/
theorem writeDmem_succeed (s : State) (a : Nat) (bs : Bytes) : (s.nextDraw.writeDmem a bs).succeed =
    { s with dmem := Memory.writeBytes s.dmem a bs, draws := s.draws + 1, done := true,
             matched := false, err := .ok, errinfo := 0 } := rfl

/-- The tests in order, and the buffer replaced by its image under a function that keeps the length
of a data unit (`41_xts.md` R149, R150). -/
theorem exec_xtsCommand {i : Instr} {f : XtsKey → Block → Bytes → Bytes} {k : KeySlot}
    (run : ∀ s, exec i s = .next (xtsCommand Config.engine f k s))
    (keeps_length : ∀ x t u, 16 ≤ u.length → (f x t u).length = u.length) (s : State) :
    let n := s.len.toNat
    let a := s.addr.toNat
    (s.keys = none → exec i s = .next (s.raise .keyNotLoaded 0)) ∧
    ∀ ks, s.keys = some ks →
      (n < 16 → exec i s = .next (s.raise .dataTooShort s.len)) ∧
      (2 ^ 24 < n → exec i s = .next (s.raise .dataTooLong s.len)) ∧
      (16 ≤ n → n ≤ 2 ^ 24 → Config.engine.dmemBytes < a + n →
        exec i s = .next (s.raiseRange Config.engine s.addr)) ∧
      (16 ≤ n → n ≤ 2 ^ 24 → a + n ≤ Config.engine.dmemBytes →
        ∃ t, exec i s = .next t ∧
          t = { s with dmem := t.dmem, draws := s.draws + 1, done := true, matched := false,
                       err := .ok, errinfo := 0 } ∧
          (∀ b, ¬ (a ≤ b ∧ b < a + n) → Memory.get t.dmem b = Memory.get s.dmem b) ∧
          let u := f (ks.select k) s.tweak s.buffer
          u.length = n ∧ ∀ j, j < n → Memory.get t.dmem (a + j) = u[j]?) := by
  intro n a
  simp only [run, Host.Outcome.next.injEq]
  refine ⟨xtsCommand_of_noKeys, fun ks loaded => ⟨xtsCommand_of_short loaded,
    xtsCommand_of_long loaded, xtsCommand_of_outOfRange loaded, fun least most fits => ?replaced⟩⟩
  case replaced =>
    have len : (f (ks.select k) s.tweak s.buffer).length = n := by
      rw [keeps_length _ _ _ (by rwa [State.buffer, State.length_dmemBytes]), State.buffer,
        State.length_dmemBytes]
    refine ⟨_, xtsCommand_of_inRange loaded least most fits, writeDmem_succeed ..,
      fun b outside => ?_, len, fun j inside => ?_⟩
    · exact Memory.get_writeBytes_outside _ _ _ _ (by rwa [len])
    · have inside' := len.symm ▸ inside
      exact (Memory.get_writeBytes_inside _ _ _ _ inside').trans
        (List.getElem?_eq_getElem inside').symm

/-- Settles O33: the rule of both commands for `xtsEncUnit`. -/
theorem xtsEncReplacesTheBuffer : Obligations.XtsEncReplacesTheBuffer :=
  ⟨by decide, by decide, fun _ => exec_xtsCommand (fun _ => rfl) (length_xtsEncUnit Config.engine)⟩

/-- Settles O34: the rule of both commands for `xtsDecUnit`. -/
theorem xtsDecReplacesTheBuffer : Obligations.XtsDecReplacesTheBuffer :=
  ⟨by decide, by decide, fun _ => exec_xtsCommand (fun _ => rfl) (length_xtsDecUnit Config.engine)⟩

end Sys2Proof.Machine
end

section
/-! PROOFS. The padders and the command PAD (`42_padding.md`). -/

namespace Sys2Proof.Machine

/-! ### The padders, byte by byte -/

@[simp] theorem padTweak_default (v : Block) (tail : Bytes) :
    padTweak .default v tail = padDefault tail := rfl

@[simp] theorem padTweak_xor (v : Block) (tail : Bytes) :
    padTweak .xor v tail = padDefault tail ^^^ v := rfl

theorem getD_zeros (n i : Nat) : (zeros n).getD i 0 = 0 := by
  rw [List.getD_eq_getElem?_getD, zeros, List.getElem?_getD_replicate_default_eq]

/-- The string `tail || 80 || 0^n` of R170, byte by byte. -/
theorem getD_append_marker_zeros (tail : Bytes) (n i : Nat) :
    (tail ++ 0x80 :: zeros n).getD i 0 =
      if i < tail.length then tail.getD i 0 else if i = tail.length then 0x80 else 0 := by
  rcases Nat.lt_trichotomy i tail.length with inside | marker | above
  · rw [if_pos inside, List.getD_append _ _ _ _ inside]
  · rw [if_neg (by omega), if_pos marker, List.getD_append_right _ _ _ _ marker.ge, marker,
      Nat.sub_self, List.getD_cons_zero]
  · obtain ⟨k, beyond⟩ : ∃ k, i - tail.length = k + 1 := ⟨i - tail.length - 1, by omega⟩
    rw [if_neg (by omega), if_neg (by omega), List.getD_append_right _ _ _ _ above.le, beyond,
      List.getD_cons_succ, getD_zeros]

theorem byteAt_padDefault {tail : Bytes} (legal : tail.length ≤ 15) (i : Nat) :
    byteAt (padDefault tail) i =
      if i < tail.length then tail.getD i 0 else if i = tail.length then 0x80 else 0 := by
  have fits : (tail ++ 0x80 :: zeros (15 - tail.length)).length ≤ 16 := by
    rw [List.length_append, List.length_cons, length_zeros]
    omega
  rw [padDefault, byteAt_blockOfBytes _ _ fits, getD_append_marker_zeros]

theorem getD_readBytes (m : Memory) (d a : Nat) {n i : Nat} (h : i < n) :
    (Memory.readBytes m d a n).getD i 0 = Memory.readByte m d (a + i) := by
  have inside : i < (Memory.readBytes m d a n).length := by rwa [Memory.length_readBytes]
  rw [List.getD_eq_getElem _ _ inside, Memory.getElem_readBytes]

/-- The padded tail of the command: the bytes the read finds, then the marker and zeros. -/
theorem byteAt_padDefault_buffer {s : State} (legal : s.len.toNat ≤ 15) (i : Nat) :
    byteAt (padDefault s.buffer) i =
      if i < s.len.toNat then Memory.readByte s.dmem s.draws (s.addr.toNat + i)
      else if i = s.len.toNat then 0x80 else 0 := by
  have len : s.buffer.length = s.len.toNat := State.length_dmemBytes ..
  rw [byteAt_padDefault (by rwa [len]), len]
  split
  case isTrue inside => exact getD_readBytes _ _ _ inside
  case isFalse => rfl

/-! ### The command -/

theorem pad_of_long {E : Engine} {p : Padder} {s : State} (h : 15 < s.len.toNat) :
    pad E p s = s.enterPanic := by
  rw [pad, if_pos h]

theorem pad_of_outOfRange {E : Engine} {p : Padder} {s : State} (legal : s.len.toNat ≤ 15)
    (h : E.dmemBytes < s.addr.toNat + s.len.toNat) : pad E p s = s.raiseRange E s.addr := by
  rw [pad, if_neg legal.not_gt, if_pos ((outOfRange_iff ..).mpr h)]

theorem pad_of_inRange {E : Engine} {p : Padder} {s : State} (legal : s.len.toNat ≤ 15)
    (h : s.addr.toNat + s.len.toNat ≤ E.dmemBytes) :
    pad E p s = (s.nextDraw.setTweak (padTweak p s.padval s.buffer)).succeed := by
  rw [pad, if_neg legal.not_gt, if_neg (by rw [outOfRange_iff]; exact h.not_gt)]

/-- Settles O30: the two tests in order, and the bytes of the padded tail, under the XOR padder each
with its byte of PADVAL. -/
theorem padWritesThePaddedTail : Obligations.PadWritesThePaddedTail := by
  refine ⟨by decide, by decide, fun p s => ?_⟩
  simp only [exec_eq_next]
  refine ⟨pad_of_long, pad_of_outOfRange, fun legal fits =>
    ⟨_, pad_of_inRange legal fits, setTweak_succeed s.nextDraw _, fun i _ => ?padded⟩⟩
  case padded =>
    rw [← byteAt_padDefault_buffer legal, setTweak_succeed]
    cases p with
    | default => exact (BitVec.xor_zero).symm
    | xor => exact byteAt_xor _ s.padval i

end Sys2Proof.Machine
end

section
/-! PROOFS. The wide-block cipher and the commands MIX, LDT_ENC and LDT_DEC (`43_ldt.md`). -/

namespace Sys2Proof.Machine

/-! ### MIX -/

/-- A mix whose permutation is its own inverse is its own inverse. -/
theorem mixBlock_mixBlock {sigma : Equiv.Perm (Fin 16)} (involution : ∀ i, sigma (sigma i) = i)
    (b : Block) : mixBlock sigma (mixBlock sigma b) = b := by
  apply block_ext
  intro i hi
  calc byteAt (mixBlock sigma (mixBlock sigma b)) i
      = byteAt (mixBlock sigma b) (sigma ⟨i, hi⟩) := byteAt_mixBlock sigma _ ⟨i, hi⟩
    _ = byteAt b (sigma (sigma ⟨i, hi⟩)) := byteAt_mixBlock sigma b _
    _ = byteAt b i := by rw [involution]

@[simp] theorem mix_tweak (E : Engine) (s : State) :
    (mix E s).tweak = mixBlock E.mixPerm s.tweak := rfl

/-- Settles O40: MIX stores the mixed block, and byte reversal is its own inverse. -/
theorem mixPermutesTheBytes : Obligations.MixPermutesTheBytes := by
  refine ⟨by decide, fun s => ⟨mix Config.engine s, exec_eq .mix s, ?frame, ?bytes,
    fun reversal => ⟨mix Config.engine (mix Config.engine s), exec_eq .mix _, ?restored⟩⟩⟩
  case frame => exact setTweak_succeed s _
  case bytes => exact fun i => by rw [mix_tweak, byteAt_mixBlock]
  case restored =>
    have involution : ∀ i, Config.engine.mixPerm (Config.engine.mixPerm i) = i := fun i => by
      rw [reversal, reversal, sub_sub_cancel]
    rw [mix_tweak, mix_tweak, mixBlock_mixBlock involution]

/-! ### The cipher, part by part -/

/-- The two parts of a ciphertext (`43_ldt.md` R189): the first block, and the masked tail. -/
theorem ldtEncrypt_eq_append (E : Engine) (k : LdtKey) (p : Padder) (v : Block) (msg : Bytes) :
    let cf := xtsEncBlock E k.key1 (padTweak p v (msg.drop 16)) (unitBlock msg 0)
    ldtEncrypt E k p v msg =
      blockBytes cf ++ tailOp E k.key2 (mixBlock E.mixPerm cf) (msg.drop 16) := rfl

/-- The tail step, byte by byte (`43_ldt.md` R190). -/
theorem getElem?_tailOp (E : Engine) (key2 : XtsKey) (t2 : Block) {x : Bytes} {j : Nat}
    (inside : j < x.length) (legal : x.length ≤ 16) :
    (tailOp E key2 t2 x)[j]? = some (x[j] ^^^ byteAt (xtsEncBlock E key2 t2 0) j) := by
  have inside' : j < (blockBytes (xtsEncBlock E key2 t2 0)).length := by
    rw [length_blockBytes]
    omega
  rw [tailOp, xorBytes, List.getElem?_zipWith, List.getElem?_eq_getElem inside,
    List.getElem?_eq_getElem inside', getElem_blockBytes]

/-- Settles O43: the first block read off the front, and the tail step byte by byte behind it. -/
theorem ldtEncryptFollowsItsSteps : Obligations.LdtEncryptFollowsItsSteps := by
  intro E k p v msg least most out cf ks
  have parts : out = blockBytes cf ++ tailOp E k.key2 (mixBlock E.mixPerm cf) (msg.drop 16) :=
    ldtEncrypt_eq_append E k p v msg
  have tail : (msg.drop 16).length = msg.length - 16 := List.length_drop
  refine ⟨length_ldtEncrypt E k p v msg least (by omega), ?first, fun j inside => ?masked⟩
  case first =>
    rw [parts]
    exact unitBlock_append_blockBytes (front := []) (j := 0) rfl cf _
  case masked =>
    rw [parts, List.getElem?_append_right (by rw [length_blockBytes]; omega), length_blockBytes,
      Nat.add_sub_cancel, getElem?_tailOp E _ _ (by omega) (by omega), List.getElem_drop,
      List.getD_eq_getElem _ _ inside]
    simp only [Nat.add_comm 16 j, ks]

/-! ### LDT_ENC and LDT_DEC: one rule for both (`43_ldt.md` R193, R194) -/

section

variable {E : Engine} {f : LdtKey → Padder → Block → Bytes → Bytes} {p : Padder} {s : State}
  {ks : LdtKey}

theorem ldtCommand_of_noKeys (h : s.keys = none) :
    ldtCommand E f p s = s.raise .keyNotLoaded 0 := by
  simp only [ldtCommand, h]

theorem ldtCommand_of_badLength (loaded : s.keys = some ks)
    (h : s.len.toNat < 16 ∨ 31 < s.len.toNat) :
    ldtCommand E f p s = s.raise .invalidLength s.len := by
  simp only [ldtCommand, loaded, if_pos h]

theorem ldtCommand_of_outOfRange (loaded : s.keys = some ks) (least : 16 ≤ s.len.toNat)
    (most : s.len.toNat ≤ 31) (h : E.dmemBytes < s.addr.toNat + s.len.toNat) :
    ldtCommand E f p s = s.raiseRange E s.addr := by
  have legal : ¬ (s.len.toNat < 16 ∨ 31 < s.len.toNat) := by omega
  simp only [ldtCommand, loaded, if_neg legal, if_pos ((outOfRange_iff ..).mpr h)]

theorem ldtCommand_of_inRange (loaded : s.keys = some ks) (least : 16 ≤ s.len.toNat)
    (most : s.len.toNat ≤ 31) (h : s.addr.toNat + s.len.toNat ≤ E.dmemBytes) :
    ldtCommand E f p s =
      (s.nextDraw.writeDmem s.addr.toNat (f ks p s.padval s.buffer)).succeed := by
  have legal : ¬ (s.len.toNat < 16 ∨ 31 < s.len.toNat) := by omega
  simp only [ldtCommand, loaded, if_neg legal, (outOfRange_eq_false ..).mpr h, Bool.false_eq_true,
    if_false]

end

/-- What `MemWrite` leaves inside its range, as a list lookup. -/
theorem Memory.get_writeBytes_getElem? (m : Memory) (a : Nat) {bs : Bytes} {j : Nat}
    (inside : j < bs.length) : Memory.get (Memory.writeBytes m a bs) (a + j) = bs[j]? :=
  (Memory.get_writeBytes_inside m a bs j inside).trans (List.getElem?_eq_getElem inside).symm

/-- The tests in order, and the buffer replaced by its image under a function that keeps the length
of a legal message. -/
theorem exec_ldtCommand {i : Instr} {f : LdtKey → Padder → Block → Bytes → Bytes} {p : Padder}
    (run : ∀ s, exec i s = .next (ldtCommand Config.engine f p s))
    (keeps_length : ∀ k p v u, 16 ≤ u.length → u.length ≤ 32 → (f k p v u).length = u.length)
    (s : State) :
    let n := s.len.toNat
    let a := s.addr.toNat
    (s.keys = none → exec i s = .next (s.raise .keyNotLoaded 0)) ∧
    ∀ ks, s.keys = some ks →
      (n < 16 ∨ 31 < n → exec i s = .next (s.raise .invalidLength s.len)) ∧
      (16 ≤ n → n ≤ 31 → Config.engine.dmemBytes < a + n →
        exec i s = .next (s.raiseRange Config.engine s.addr)) ∧
      (16 ≤ n → n ≤ 31 → a + n ≤ Config.engine.dmemBytes →
        ∃ t, exec i s = .next t ∧
          t = { s with dmem := t.dmem, draws := s.draws + 1, done := true, matched := false,
                       err := .ok, errinfo := 0 } ∧
          (∀ b, ¬ (a ≤ b ∧ b < a + n) → Memory.get t.dmem b = Memory.get s.dmem b) ∧
          let u := f ks p s.padval s.buffer
          u.length = n ∧ ∀ j, j < n → Memory.get t.dmem (a + j) = u[j]?) := by
  intro n a
  simp only [run, Host.Outcome.next.injEq]
  refine ⟨ldtCommand_of_noKeys, fun ks loaded => ⟨ldtCommand_of_badLength loaded,
    ldtCommand_of_outOfRange loaded, fun least most fits => ?replaced⟩⟩
  case replaced =>
    have buffer : s.buffer.length = n := State.length_dmemBytes ..
    have len : (f ks p s.padval s.buffer).length = n :=
      (keeps_length _ _ _ _ (by omega) (by omega)).trans buffer
    exact ⟨_, ldtCommand_of_inRange loaded least most fits, writeDmem_succeed ..,
      fun b outside => Memory.get_writeBytes_outside _ _ _ _ (by rwa [len]), len,
      fun j inside => Memory.get_writeBytes_getElem? _ _ (by rwa [len])⟩

/-- Settles O41: the rule of both commands for `ldtEncrypt`. -/
theorem ldtEncReplacesTheBuffer : Obligations.LdtEncReplacesTheBuffer :=
  ⟨by decide, by decide, fun _ => exec_ldtCommand (fun _ => rfl) (length_ldtEncrypt Config.engine)⟩

/-- Settles O42: the rule of both commands for `ldtDecrypt`. -/
theorem ldtDecReplacesTheBuffer : Obligations.LdtDecReplacesTheBuffer :=
  ⟨by decide, by decide, fun _ => exec_ldtCommand (fun _ => rfl) (length_ldtDecrypt Config.engine)⟩

end Sys2Proof.Machine
end

section
/-! PROOFS. Frames, credential entries and what one credential must satisfy to match
(`44_codec_frames.md`). -/

namespace Sys2Proof

/-! ### Consecutive pieces of a byte string -/

theorem slice_zero (bs : Bytes) (b : Nat) : slice bs 0 b = bs.take b := rfl

/-- A slice and the rest behind it are the string from the slice's start on. -/
theorem slice_append_drop (bs : Bytes) {a b : Nat} (h : a ≤ b) :
    slice bs a b ++ bs.drop b = bs.drop a := by
  have rest : bs.drop b = (bs.drop a).drop (b - a) := by
    rw [List.drop_drop, Nat.add_sub_cancel' h]
  rw [slice, rest, List.take_append_drop]

/-- A slice that runs to the end of the string is all that follows its start. -/
theorem slice_eq_drop (bs : Bytes) {a b : Nat} (h : bs.length ≤ b) : slice bs a b = bs.drop a :=
  List.take_of_length_le (by rw [List.length_drop]; omega)

end Sys2Proof

namespace Sys2Proof.Machine

/-! ### The V0 frame -/

theorem v0LengthLegal_iff (n : Nat) : v0LengthLegal n = true ↔ 32 ≤ n ∧ n ≤ 47 := decide_eq_true_iff

/-- The three fields of any frame, whatever its length, are the frame. -/
theorem v0Fields_append (F : Bytes) :
    (v0Fields F).salt ++ (v0Fields F).token ++ (v0Fields F).ct = F :=
  calc slice F 0 2 ++ slice F 2 16 ++ F.drop 16
      = slice F 0 2 ++ (slice F 2 16 ++ F.drop 16) := List.append_assoc ..
    _ = slice F 0 2 ++ F.drop 2 := by rw [slice_append_drop F (by decide)]
    _ = F.drop 0 := slice_append_drop F (by decide)

theorem length_v0Fields_salt {F : Bytes} (h : 2 ≤ F.length) : (v0Fields F).salt.length = 2 := by
  rw [v0Fields, length_slice]
  omega

theorem length_v0Fields_token {F : Bytes} (h : 16 ≤ F.length) :
    (v0Fields F).token.length = 14 := by
  rw [v0Fields, length_slice]
  omega

theorem length_v0Fields_ct (F : Bytes) : (v0Fields F).ct.length = F.length - 16 := List.length_drop

/-- Settles O47: two slices and the rest behind them, cut where each ends. -/
theorem v0FieldsCutTheFrame : Obligations.V0FieldsCutTheFrame := by
  intro F legal
  obtain ⟨least, most⟩ := (v0LengthLegal_iff _).mp legal
  have ct := length_v0Fields_ct F
  exact ⟨v0Fields_append F, length_v0Fields_salt (by omega), length_v0Fields_token (by omega),
    by omega, by omega⟩

/-! ### Credential entries (`45_resolve.md` R235, R236) -/

theorem credEntryOf_eq {E : Engine} {e : Bytes} (h : e.length = E.credStride) :
    credEntryOf E e =
      { seed := e.take 32, v0Exp := (e.drop 32).take E.macLen, pk := e.drop (32 + E.macLen) } := by
  rw [credEntryOf, slice_zero, slice, Nat.add_sub_cancel_left, slice_eq_drop e h.le]

/-- An entry whose bytes the host wrote all is read as its fields, whatever the number of the read. -/
theorem entryRead_of_written {E : Engine} {s : State} {j : Nat} {e : Bytes}
    (length : e.length = E.credStride)
    (written : ∀ k, k < e.length →
      Memory.get s.dmem (s.credBase.toNat + j * e.length + k) = e[k]?) :
    s.entryRead E j =
      { seed := e.take 32, v0Exp := (e.drop 32).take E.macLen, pk := e.drop (32 + E.macLen) } := by
  rw [State.entryRead, ← length, Memory.readBytes_of_get _ written, credEntryOf_eq length]

/-! ### Attempts -/

/-- `44_codec_frames.md` R212. -/
theorem v0Attempt_eq_some_iff (E : Engine) (seed exp : Bytes) (p : Padder) (v : Block)
    (ct pt : Bytes) :
    v0Attempt E seed exp p v ct = some pt ↔
      pt = ldtDecrypt E (ldtKeyOf E (E.deriveV0Ldt seed).toList) p v ct ∧
      (E.hmac E.macLen (E.deriveV0Hmac seed) (pt.take 14)).toList = exp := by
  rw [v0Attempt, Option.ite_none_right_eq_some, Option.some_inj, slice_zero]
  constructor
  · rintro ⟨mac, rfl⟩
    exact ⟨rfl, mac⟩
  · rintro ⟨rfl, mac⟩
    exact ⟨mac, rfl⟩

/-- Settles O49: the test of `v0Attempt`, and the entry that was written. -/
theorem v0MatchMeansTheMacAgrees : Obligations.V0MatchMeansTheMacAgrees := by
  refine ⟨v0Attempt_eq_some_iff, fun E s p j e length written => ?entry⟩
  case entry =>
    have entry := entryRead_of_written length written
    exact ⟨entry, by rw [State.tryV0, entry, attemptV0]⟩

/-- The canonical bytes in their order (`44_codec_frames.md` R216), with the single bytes consed. -/
theorem canon_eq_cons (E : Engine) (hdr : Byte) (f : V1Frame) (tokPt : Block) (dePt : Bytes) :
    canon E hdr f tokPt dePt =
      E.svcCtx ++ hdr :: f.format :: f.salt ++ bytesLe 12 (E.computeNonce f.salt) ++
        blockBytes tokPt ++ f.lenbyte :: dePt := by
  simp only [canon, List.append_assoc, List.cons_append, List.nil_append]

/-- `44_codec_frames.md` R217. -/
theorem v1AttemptMic_eq_some_iff (E : Engine) (seed : Bytes) (hdr : Byte) (sl : Nat) (f : V1Frame)
    (pt : Bytes) :
    let d := E.v1Decrypt seed f.salt (E.computeNonce f.salt) f.tok f.de
    v1AttemptMic E seed hdr sl f = some pt ↔
      pt = blockBytes d.1 ++ d.2.toList ∧
      (E.hmac E.micLen (E.deriveV1Mic seed sl) (canon E hdr f d.1 d.2.toList)).toList =
        f.trailer := by
  rw [v1AttemptMic, Option.ite_none_right_eq_some, Option.some_inj, eq_comm (b := pt), and_comm]

/-- `44_codec_frames.md` R218. -/
theorem v1AttemptSig_eq_some_iff (E : Engine) (seed pk : Bytes) (hdr : Byte) (f : V1Frame)
    (pt : Bytes) :
    let d := E.v1Decrypt seed f.salt (E.computeNonce f.salt) f.tok f.de
    v1AttemptSig E seed pk hdr f = some pt ↔
      pt = blockBytes d.1 ++ d.2.toList ∧
      E.ed25519Verify pk E.sigCtx (canon E hdr f d.1 d.2.toList) f.trailer = true := by
  rw [v1AttemptSig, Option.ite_none_right_eq_some, Option.some_inj, eq_comm (b := pt), and_comm]

/-- Settles O50: the test of each mode over the canonical bytes, and the entry that was written. -/
theorem v1MatchMeansTheTrailerVerifies : Obligations.V1MatchMeansTheTrailerVerifies := by
  refine ⟨fun E hdr salt f e pt => ?modes, fun E s salt mode j e length written => ?entry⟩
  case modes =>
    intro d c
    have canonical : c = canon E hdr f d.1 d.2.toList := (canon_eq_cons ..).symm
    rw [canonical]
    exact ⟨v1AttemptMic_eq_some_iff E e.seed hdr (saltBytes salt) f pt,
      v1AttemptSig_eq_some_iff E e.seed e.pk hdr f pt⟩
  case entry => rw [State.tryV1, entryRead_of_written length written]

end Sys2Proof.Machine
end

section
/-! PROOFS. Identity resolution: the two RESOLVE commands when no credential entry verifies
(`45_resolve.md` R240). -/

namespace Sys2Proof.Machine

theorem v1LengthLegal_iff (n sl tl : Nat) : v1LengthLegal n sl tl = true ↔ 18 + sl + tl ≤ n :=
  decide_eq_true_iff

/-- What RESOLVE_V0 records of a frame, cut out of the frame's bytes (`44_codec_frames.md` R219). -/
theorem recordV0_v0Fields (F : Bytes) (s : State) : recordV0 (v0Fields F) s =
    s.setSirc (blockOfBytes (F.take 2 ++ List.replicate 14 0)) 2 0
      (blockOfBytes ((F.drop 2).take 14 ++ List.replicate 2 0)) := rfl

/-- The ending without a match, after the SIRC registers were written: the CRED_IDX of R240, the count
of the reads made, and the flags of the error. -/
theorem setSirc_noMatch (s : State) (salt : Block) (saltLen : Word) (nonce : Nonce) (token : Block)
    (reads : Nat) (idx : Word) :
    (State.setCredIdx { s.nextDraw.setSirc salt saltLen nonce token with draws := reads } idx).raise
        .noMatchingCredentials 0 =
      { s with credIdx := idx, sircSalt := salt, sircSaltLen := saltLen, sircNonce := nonce,
               sircToken := token, draws := reads, done := true, matched := false,
               err := .noMatchingCredentials, errinfo := 0 } := rfl

/-- When the tests pass and no entry below CRED_COUNT verifies, a RESOLVE command ends with
`NoMatchingCredentials`, whatever it records of the frame: the frame is its first memory read and
each entry one more. -/
theorem resolve_of_noMatch {E : Engine} {legal : Nat → Bool} {record : Bytes → State → State}
    {attempt : Bytes → CredEntry → Option Bytes} {s : State} (length : legal s.len.toNat = true)
    (fit : s.tablesFit E) (entry : s.LoopEntry (record s.buffer s.nextDraw))
    (noMatch : ∀ j, j < s.credCount.toNat → attempt s.buffer (s.entryRead E j) = none) :
    resolve E legal record attempt s =
      (State.setCredIdx
        { record s.buffer s.nextDraw with draws := s.draws + 1 + s.credCount.toNat }
        s.credCount).raise .noMatchingCredentials 0 :=
  (resolve_runs E legal record attempt s length fit).trans (resolveLoop_none entry noMatch)

theorem resolveV0_of_noMatch {E : Engine} {p : Padder} {s : State} (least : 32 ≤ s.len.toNat)
    (most : s.len.toNat ≤ 47) (fit : s.tablesFit E)
    (noMatch : ∀ j, j < s.credCount.toNat → s.tryV0 E p j = none) :
    resolveV0 E p s =
      { s with credIdx := s.credCount,
               sircSalt := blockOfBytes (s.buffer.take 2 ++ List.replicate 14 0), sircSaltLen := 2,
               sircNonce := 0,
               sircToken := blockOfBytes ((s.buffer.drop 2).take 14 ++ List.replicate 2 0),
               draws := s.draws + 1 + s.credCount.toNat,
               done := true, matched := false, err := .noMatchingCredentials, errinfo := 0 } := by
  have length : v0LengthLegal s.len.toNat = true := (v0LengthLegal_iff _).mpr ⟨least, most⟩
  rw [resolveV0, resolve_of_noMatch length fit (loopEntry_recordV0 ..) noMatch, recordV0_v0Fields,
    setSirc_noMatch]

theorem resolveV1_of_noMatch {E : Engine} {salt : SaltKind} {mode : VerifyMode} {s : State}
    (least : 18 + saltBytes salt + trailerBytes E mode ≤ s.len.toNat) (fit : s.tablesFit E)
    (noMatch : ∀ j, j < s.credCount.toNat → s.tryV1 E salt mode j = none) :
    let f := s.section1 E salt mode
    resolveV1 E salt mode s =
      { s with credIdx := s.credCount,
               sircSalt := blockOfBytes (f.salt ++ List.replicate (16 - saltBytes salt) 0),
               sircSaltLen := BitVec.ofNat 32 (saltBytes salt),
               sircNonce := E.computeNonce f.salt, sircToken := f.tok,
               draws := s.draws + 1 + s.credCount.toNat,
               done := true, matched := false, err := .noMatchingCredentials, errinfo := 0 } := by
  intro f
  have length : v1LengthLegal s.len.toNat (saltBytes salt) (trailerBytes E mode) = true :=
    (v1LengthLegal_iff ..).mpr least
  rw [resolveV1]
  exact (resolve_of_noMatch length fit (loopEntry_recordV1 E _ f s) noMatch).trans
    (setSirc_noMatch ..)

/-- Settles O55: the tests pass, and the loop of each command runs off the end of the table. -/
theorem noMatchIsReported : Obligations.NoMatchIsReported := by
  refine ⟨fun p s least most fit noMatch => ?v0, fun salt mode s least fit noMatch => ?v1⟩
  case v0 =>
    exact (exec_eq ..).trans (congrArg Host.Outcome.next (resolveV0_of_noMatch least most fit noMatch))
  case v1 =>
    exact (exec_eq ..).trans (congrArg Host.Outcome.next (resolveV1_of_noMatch least fit noMatch))

end Sys2Proof.Machine
end

section
/-! PROOFS. The deserialization arena and the command ARENA_RESET (`46_arena.md` R272). -/

namespace Sys2Proof.Machine

/-- What ARENA_RESET changes: the arena pointer and the flags of the success entry. -/
theorem setArenaPtr_succeed (s : State) (p : Word) : (s.setArenaPtr p).succeed =
    { s with arenaPtr := p, done := true, matched := false, err := .ok, errinfo := 0 } := rfl

/-- Settles O59: the word encodes ARENA_RESET, which clears ARENA_PTR and takes the success entry. -/
theorem arenaResetDropsTheArena : Obligations.ArenaResetDropsTheArena := by
  refine ⟨decodeWord_eq_ok_iff.mpr ?word, fun s => ?next⟩
  case word => decide
  case next =>
    exact (exec_eq .arenaReset s).trans (congrArg Host.Outcome.next (setArenaPtr_succeed s 0))

end Sys2Proof.Machine
end

section
/-! PROOFS. How commands end: the endings field by field, illegal words, and what an error leaves
unchanged (`60_exceptions.md` R285, R286, R292, R293, R296). -/

namespace Sys2Proof.Machine

/-! ### The endings, field by field -/

/-- The four fields an ending other than a panic writes. -/
theorem State.finish_eq (s : State) (m : Bool) (c : ErrCode) (w : Word) :
    s.finish m c w = { s with done := true, matched := m, err := c, errinfo := w } := rfl

theorem State.enterPanic_eq (s : State) : s.enterPanic =
    { s with panic := true, done := false, matched := false, err := .panic, errinfo := 0 } := rfl

/-- Settles O15: the error entry and both success entries are `finish`. -/
theorem theThreeEndingsWriteTheFlags : Obligations.TheThreeEndingsWriteTheFlags := fun s c w =>
  ⟨s.finish_eq false c w, s.finish_eq false .ok 0, s.finish_eq true .ok 0, s.enterPanic_eq⟩

/-! ### Illegal words -/

/-- Only the words of R94 are commands: they are the first components of the pairs of O1. -/
theorem mem_legalWords_of_decodeWord {w : Word} {i : Instr} (d : decodeWord w = .ok i) :
    w ∈ legalWords :=
  List.mem_map_of_mem (f := Prod.fst) ((legalWordsAreTheTwentyOne w i).mp d)

/-- Settles O6: the decoder rejects the word, and a rejected word ends in the error entry. -/
theorem illegalWordRaisesIllegalCommand : Obligations.IllegalWordRaisesIllegalCommand := by
  intro s w rest e p illegal
  cases d : decodeWord w with
  | ok i => exact absurd (mem_legalWords_of_decodeWord d) illegal
  | error err =>
    exact (step_illegal e p d).trans (congrArg Host.Outcome.next (State.finish_eq _ false _ w))

/-! ### What an error leaves unchanged -/

/-- Both endings of the RESOLVE loop with an error have this form: beside the flags they wrote CRED_IDX
and the SIRC registers, and made memory reads. -/
theorem loopError_eq (s : State) (reads : Nat) (salt : Block) (saltLen : Word) (nonce : Nonce)
    (token : Block) (idx : Word) (c : ErrCode) (w : Word) :
    ((State.setSirc { s with draws := reads } salt saltLen nonce token).setCredIdx idx).raise c w =
      { s with done := true, matched := false, err := c, errinfo := w, credIdx := idx,
               sircSalt := salt, sircSaltLen := saltLen, sircNonce := nonce, sircToken := token,
               draws := reads } := rfl

/-- Settles O19: of the cases of `CommandTo`, a failed test has the first form and the two loop endings
the second; every other case ends with `OK` or panics. -/
theorem errorsHaveNoPartialEffects : Obligations.ErrorsHaveNoPartialEffects := by
  intro i s t h notOk notPanic
  cases exec_commandTo h with
  | failed _ c w code =>
    obtain ⟨-, -, notNoMatch, notNoRoom⟩ := code
    exact ⟨fun _ _ => s.finish_eq false c w,
      fun loopEnding => absurd loopEnding (not_or_intro notNoMatch notNoRoom)⟩
  | noMatch _ _ reads salt saltLen nonce token kind _ =>
    exact ⟨fun notNoMatch _ => absurd rfl notNoMatch,
      fun _ => ⟨kind, fun _ => rfl, nofun, loopError_eq s reads salt saltLen nonce token _ _ _⟩⟩
  | noRoom _ _ reads salt saltLen nonce token kind j below n =>
    have idx_lt : (BitVec.ofNat 32 j).toNat < Config.engine.ncredMax := by
      rw [BitVec.toNat_ofNat]
      exact (Nat.mod_le j _).trans_lt below
    exact ⟨fun _ notNoRoom => absurd rfl notNoRoom,
      fun _ => ⟨kind, nofun, fun _ => idx_lt, loopError_eq s reads salt saltLen nonce token _ _ _⟩⟩
  | panicked => exact absurd rfl notPanic
  | tweak | keys | buffer | delivered | arenaReset => exact absurd rfl notOk

end Sys2Proof.Machine
end

section
/-! PROOFS. Reset, and the two conditions that only reset ends: the panic state and KEYS_VALID = 1
(`70_reset_and_hazards.md` R320, R321). -/

namespace Sys2Proof.Machine

/-! ### The state after reset -/

@[simp] theorem wordAt_zero {w : Nat} (n : Nat) : wordAt (0 : BitVec w) n = 0 :=
  BitVec.extractLsb'_zero

theorem statusWord_reset : State.reset.statusWord = 0 := by decide

theorem readReg_afterReset (s : State) (r : Reg) : s.afterReset.readReg r = 0 := by
  cases r with
  | tweak n | padval n | sircSalt n | sircNonce n | sircToken n => exact wordAt_zero n
  | status => exact statusWord_reset
  | _ => rfl

theorem step_reset {s : State} {rest : List HostStep} (e : s.host = .reset :: rest) :
    step s = .next (State.afterReset { s with host := rest }) := by
  rw [step_cons e, hostAccess]

/-! ### What ends the panic state -/

/-- In the panic state every write is ignored, a read leaves PANIC alone, and what is left is reset
(`20_memory.md` R74). -/
theorem StepTo.panic_or_reset {s t : State} (h : StepTo s t) (panicked : s.panic = true) :
    t.panic = true ∨ ∃ rest, s.host = .reset :: rest := by
  cases h with
  | idle | ignored | readReg | readDmem | readArena => exact .inl panicked
  | illegal _ _ _ notPanic | command _ _ _ notPanic | register _ _ _ _ notPanic
  | writeDmem _ _ _ _ notPanic => exact absurd panicked (by simp [notPanic])
  | reset rest e => exact .inr ⟨rest, e⟩

/-! ### What clears KEYS_VALID -/

@[simp] theorem writeReg_keys (s : State) (v : Word) (r : Reg) : (s.writeReg v r).keys = s.keys := by
  cases r <;> rfl

/-- KEY_LOAD fills the key slots, and every other ending of a command leaves them alone. -/
theorem CommandTo.keysValid {E : Engine} {s t : State} {i : Instr} (h : CommandTo E s i t)
    (valid : s.keysValid = true) : t.keysValid = true := by
  cases h with
  | keys => rfl
  | failed | panicked | tweak | buffer | noMatch | noRoom | delivered | arenaReset =>
    simpa [State.keysValid] using valid

/-- No access but reset takes a value out of the key slots (`10_state.md` R32). -/
theorem StepTo.keysValid_or_reset {s t : State} (h : StepTo s t) (valid : s.keysValid = true) :
    t.keysValid = true ∨ ∃ rest, s.host = .reset :: rest := by
  cases h with
  | idle | ignored | illegal | readReg | writeDmem | readDmem | readArena => exact .inl valid
  | command _ _ _ _ _ _ _ ran => exact .inl ((exec_commandTo ran).keysValid valid)
  | register => exact .inl ((congrArg Option.isSome (writeReg_keys _ _ _)).trans valid)
  | reset rest e => exact .inr ⟨rest, e⟩

/-- Settles O12: the state after reset, and the two conditions every other step keeps. -/
theorem resetIsTheOnlyWayOut : Obligations.ResetIsTheOnlyWayOut := by
  refine ⟨fun s rest e => ?afterReset, fun s t h before after => ?panic,
    fun s t h before after => ?keys⟩
  case afterReset =>
    exact ⟨_, step_reset e, readReg_afterReset _, rfl, fun _ => rfl, fun _ => rfl, rfl,
      fun idle => step_nil idle, rfl⟩
  case panic => exact ((step_next h).panic_or_reset before).resolve_left (by simp [after])
  case keys => exact ((step_next h).keysValid_or_reset before).resolve_left (by simp [after])

end Sys2Proof.Machine
end

section
/-! PROOFS. Decoding and encoding agree, and the three checks written out by bits
(`30_encoding.md` sections 3 to 5). -/

namespace Sys2Proof

/-! ### Decoding and encoding -/

@[simp] theorem decodeWord_encodeWord (i : Instr) : decodeWord (encodeWord i) = .ok i :=
  decodeWord_eq_ok_iff.mpr rfl

/-- The decoder on the bytes of a command: the command, and the bytes behind it. -/
theorem decode_encode_append (i : Instr) (rest : Bytes) :
    decode (encode i ++ rest) = .ok (i, rest) := by
  rw [encode, decode_bytesLe, decodeWord_encodeWord]
  rfl

/-- Settles O2: the round trip on bytes, and the agreement on words of `decodeWord_eq_ok_iff`. -/
theorem decodeAndEncodeAgree : Obligations.DecodeAndEncodeAgree := fun i _ rest _ =>
  ⟨decode_encode_append i rest, decodeWord_eq_ok_iff⟩

/-- Settles O4: each word written out is the encoding of its command. -/
theorem writtenOutWordsDecode : Obligations.WrittenOutWordsDecode := by
  simp only [Obligations.WrittenOutWordsDecode, decodeWord_eq_ok_iff]
  decide

/-! ### The three checks -/

/-- An opcode is assigned exactly when it names a command, whatever the flags. -/
theorem isSome_commandOf (f : Fields) : (commandOf f).isSome = f.opAssigned := by
  unfold commandOf
  split
  case h_13 other => rw [Fields.opAssigned, listedFlags]; split <;> simp_all
  all_goals
    next hop => rw [Fields.opAssigned, listedFlags, hop]; rfl

/-- The decoder accepts exactly the fields that pass all three checks (`30_encoding.md` R95). -/
theorem decodeFields_isOk_iff (f : Fields) :
    (∃ i, decodeFields f = .ok i) ↔ f.wellFormed = true := by
  have assigned := isSome_commandOf f
  constructor
  · rintro ⟨i, h⟩
    obtain ⟨reserved, command, flags⟩ := decodeFields_ok h
    rw [command] at assigned
    simp [Fields.wellFormed, reserved, flags, ← assigned]
  · intro h
    obtain ⟨⟨reserved, op⟩, flags⟩ : (f.reservedClear = true ∧ f.opAssigned = true) ∧
        f.flagsListed = true := by simpa [Fields.wellFormed] using h
    obtain ⟨i, command⟩ := Option.isSome_iff_exists.mp (assigned.trans op)
    exact ⟨i, by simp [decodeFields, reserved, command, flags]⟩

/-- The opcode map of `30_encoding.md` R93, read column by column: which opcodes are assigned, and
which list each flag. -/
theorem listedFlags_columns (op : BitVec 8) :
    ((listedFlags op).isSome = true ↔
      op ∈ [0x01#8, 0x02, 0x03, 0x04, 0x05, 0x08, 0x09, 0x0A, 0x0B, 0x10, 0x11, 0x18]) ∧
    ∀ l, listedFlags op = some l →
      (l.ksel = true ↔ op ∈ [0x08#8, 0x09]) ∧ (l.psel = true ↔ op ∈ [0x05#8, 0x0A, 0x0B, 0x10]) ∧
      (l.salt16 = true ↔ op = 0x11) ∧ (l.sigmode = true ↔ op = 0x11) := by
  revert op
  decide

/-- Settles O3: the checks of `Fields.wellFormed` on the fields of the word, with the opcode map read
column by column. -/
theorem legalWordsPassTheThreeChecks : Obligations.LegalWordsPassTheThreeChecks := by
  intro w
  obtain ⟨assigned, columns⟩ := listedFlags_columns (w.extractLsb' 0 8)
  have op : (fieldsOf w).op = w.extractLsb' 0 8 := rfl
  rw [decodeWord.eq_def, decodeFields_isOk_iff, ← assigned]
  simp only [Fields.wellFormed, Fields.reservedClear, Fields.opAssigned, Fields.flagsListed, op]
  cases listed : listedFlags (w.extractLsb' 0 8) with
  | none => simp
  | some l =>
    obtain ⟨ksel, psel, salt16, sigmode⟩ := columns l listed
    simp [fieldsOf, ksel, psel, salt16, sigmode, imp_iff_not_or, and_assoc]

end Sys2Proof
end

section
/-! PROOFS. The invariant of the machine: reset has it and every step keeps it. -/

namespace Sys2Proof.Machine

/-! ### What a state update says about each clause of the invariant -/

/-- The flags agree after every ending but a panic, of a state that is not in the panic state. -/
theorem flagsAgree_finish {s : State} (p : s.panic = false) {m : Bool} {c : ErrCode} {w : Word}
    (notPanic : c ≠ .panic) (success : m = true → c = .ok) (info : c = .ok → w = 0) :
    (s.finish m c w).FlagsAgree where
  panicCode := by simp [p, notPanic]
  panicClears h := by simp [p] at h
  idleIsClear h := by simp at h
  matchIsSuccess h := ⟨rfl, success h⟩
  successInfo := info

theorem flagsAgree_raise {s : State} (p : s.panic = false) {c : ErrCode} {w : Word} (notOk : c ≠ .ok)
    (notPanic : c ≠ .panic) : (s.raise c w).FlagsAgree :=
  flagsAgree_finish p notPanic (absurd · Bool.false_ne_true) (absurd · notOk)

theorem flagsAgree_succeed {s : State} (p : s.panic = false) : s.succeed.FlagsAgree :=
  flagsAgree_finish p (by decide) (fun _ => rfl) (fun _ => rfl)

theorem flagsAgree_succeedMatch {s : State} (p : s.panic = false) : s.succeedMatch.FlagsAgree :=
  flagsAgree_finish p (by decide) (fun _ => rfl) (fun _ => rfl)

theorem flagsAgree_enterPanic (s : State) : s.enterPanic.FlagsAgree where
  panicCode := by simp
  panicClears _ := ⟨rfl, rfl⟩
  idleIsClear _ h := by simp at h
  matchIsSuccess h := by simp at h
  successInfo h := by simp at h

/-- A write that stays inside a memory leaves the memory canonical and its addresses inside. -/
theorem Memory.fits_writeBytes {m : Memory} {n : Nat} (wf : Memory.wf m = true)
    (below : ∀ c ∈ m, c.1 < n) {a : Nat} {bs : Bytes} (inside : a + bs.length ≤ n) :
    Memory.wf (Memory.writeBytes m a bs) = true ∧ ∀ c ∈ Memory.writeBytes m a bs, c.1 < n := by
  refine ⟨Memory.wf_writeBytes wf a bs, fun c hc => ?_⟩
  rcases Memory.mem_writeBytes hc with written | old
  · exact lt_of_lt_of_le written.2 inside
  · exact below c old

theorem memoriesFit_writeDmem {E : Engine} {s : State} (h : s.MemoriesFit E) {a : Nat} {bs : Bytes}
    (inside : a + bs.length ≤ E.dmemBytes) : (s.writeDmem a bs).MemoriesFit E :=
  have fits := Memory.fits_writeBytes h.dmemWf h.dmemBelow inside
  ⟨fits.1, h.arenaWf, fits.2, h.arenaBelow⟩

theorem memoriesFit_writeArena {E : Engine} {s : State} (h : s.MemoriesFit E) {a : Nat} {bs : Bytes}
    (inside : a + bs.length ≤ E.arenaBytes) : (s.writeArena a bs).MemoriesFit E :=
  have fits := Memory.fits_writeBytes h.arenaWf h.arenaBelow inside
  ⟨h.dmemWf, fits.1, h.dmemBelow, fits.2⟩

theorem toNat_ofNat_word {n : Nat} (h : n < 2 ^ 32) : (BitVec.ofNat 32 n).toNat = n := by
  rw [BitVec.toNat_ofNat, Nat.mod_eq_of_lt h]

/-- An allocation at the pointer, written in full, keeps the arena's bookkeeping. -/
theorem arenaKept_delivered {E : Engine} {s t : State} (h : s.ArenaKept E)
    (small : E.arenaBytes < 2 ^ 32) {pt : Bytes} (room : s.arenaPtr.toNat + pt.length ≤ E.arenaBytes)
    (arena : t.arena = Memory.writeBytes s.arena s.arenaPtr.toNat pt)
    (arenaPtr : t.arenaPtr = BitVec.ofNat 32 (s.arenaPtr.toNat + pt.length))
    (resAddr : t.resAddr = s.arenaPtr) (resLen : t.resLen = BitVec.ofNat 32 pt.length) :
    t.ArenaKept E := by
  have pointer : t.arenaPtr.toNat = s.arenaPtr.toNat + pt.length := by
    rw [arenaPtr, toNat_ofNat_word (by omega)]
  refine ⟨by rw [pointer]; exact room, fun a below => ?written, ?result⟩
  case written =>
    rw [arena, Memory.get_writeBytes]
    split
    case isTrue inside =>
      rw [List.getElem?_eq_getElem (by omega)]
      rfl
    case isFalse outside => exact h.written a (by omega)
  case result =>
    rw [resAddr, resLen, toNat_ofNat_word (by omega)]
    exact room

/-- A pointer at 0 claims no byte of the arena. -/
theorem arenaKept_setArenaPtr_zero {E : Engine} {s : State} (h : s.ArenaKept E) :
    (s.setArenaPtr 0).ArenaKept E :=
  ⟨Nat.zero_le _, fun _ below => absurd below (Nat.not_lt_zero _), h.result⟩

/-! ### Commands -/

/-- What a delivery leaves, field by field. -/
theorem delivered_eq (s : State) (reads : Nat) (salt : Block) (saltLen : Word) (nonce : Nonce)
    (token : Block) (idx ptr addr len : Word) (a : Nat) (pt : Bytes) :
    (((((State.setSirc { s with draws := reads } salt saltLen nonce token).setCredIdx idx).setArenaPtr
        ptr).writeArena a pt).setResult addr len).succeedMatch =
      { s with done := true, matched := true, err := .ok, errinfo := 0, credIdx := idx,
               arenaPtr := ptr, resAddr := addr, resLen := len, sircSalt := salt,
               sircSaltLen := saltLen, sircNonce := nonce, sircToken := token,
               arena := Memory.writeBytes s.arena a pt, draws := reads } := by
  simp only [State.setSirc, State.setCredIdx, State.setArenaPtr, State.writeArena, State.setResult,
    State.succeedMatch_eq_finish, State.finish_eq]

/-- A command that ran outside the panic state keeps the invariant, in every engine whose arena and
credential ceiling the 32-bit registers can count. -/
theorem CommandTo.inv {E : Engine} {s t : State} {i : Instr} (h : CommandTo E s i t) (inv : s.Inv E)
    (p : s.panic = false) (small : E.arenaBytes < 2 ^ 32) (counted : E.ncredMax < 2 ^ 32) :
    t.Inv E := by
  obtain ⟨-, memories, arena, keys, saltLen, credIdx⟩ := inv
  have idx_le {j : Nat} (below : j < E.ncredMax) : (BitVec.ofNat 32 j).toNat ≤ E.ncredMax := by
    rw [toNat_ofNat_word (by omega)]
    exact below.le
  cases h with
  | failed _ c w code =>
    obtain ⟨notOk, notPanic, -, -⟩ := code
    exact ⟨flagsAgree_raise p notOk notPanic,
      { memories with }, { arena with }, keys, saltLen, credIdx⟩
  | panicked =>
    exact ⟨flagsAgree_enterPanic s, { memories with }, { arena with }, keys, saltLen, credIdx⟩
  | tweak =>
    exact ⟨flagsAgree_succeed (by exact p),
      { memories with }, { arena with }, keys, saltLen, credIdx⟩
  | keys k sized =>
    exact ⟨flagsAgree_succeed (by exact p),
      { memories with }, { arena with }, fun _ loaded => Option.some.inj loaded ▸ sized, saltLen,
      credIdx⟩
  | buffer _ _ bs length fits =>
    have written : (s.writeDmem s.addr.toNat bs).MemoriesFit E :=
      memoriesFit_writeDmem memories (length ▸ fits)
    exact ⟨flagsAgree_succeed (by exact p),
      { written with }, { arena with }, keys, saltLen, credIdx⟩
  | noMatch _ _ _ _ _ _ _ kind count =>
    exact ⟨flagsAgree_raise (by exact p) (by decide) (by decide),
      { memories with }, { arena with }, keys, .inr kind, count⟩
  | noRoom _ _ _ _ _ _ _ kind j below =>
    exact ⟨flagsAgree_raise (by exact p) (by decide) (by decide),
      { memories with }, { arena with }, keys, .inr kind, idx_le below⟩
  | delivered _ _ _ _ _ _ _ kind j below pt _ room =>
    have written : (s.writeArena s.arenaPtr.toNat pt).MemoriesFit E :=
      memoriesFit_writeArena memories room
    rw [delivered_eq]
    exact ⟨{ flagsAgree_succeedMatch p with },
      { written with }, arenaKept_delivered arena small room rfl rfl rfl rfl, keys, .inr kind,
      idx_le below⟩
  | arenaReset =>
    have dropped := arenaKept_setArenaPtr_zero arena
    exact ⟨flagsAgree_succeed (by exact p),
      { memories with }, { dropped with }, keys, saltLen, credIdx⟩

/-! ### Steps -/

/-- Every state field the invariant speaks of is as it was: what an access that is ignored, a read and
a write of a read-write register have in common. -/
structure State.SameForInv (s t : State) : Prop where
  flags : t.done = s.done ∧ t.matched = s.matched ∧ t.panic = s.panic ∧ t.err = s.err ∧
    t.errinfo = s.errinfo
  memories : t.dmem = s.dmem ∧ t.arena = s.arena
  arenaRegisters : t.arenaPtr = s.arenaPtr ∧ t.resAddr = s.resAddr ∧ t.resLen = s.resLen
  keys : t.keys = s.keys
  sirc : t.sircSaltLen = s.sircSaltLen
  index : t.credIdx = s.credIdx

theorem State.Inv.of_same {E : Engine} {s t : State} (inv : s.Inv E) (same : s.SameForInv t) :
    t.Inv E := by
  obtain ⟨⟨done, matched, panic, err, errinfo⟩, ⟨dmem, arena⟩, ⟨arenaPtr, resAddr, resLen⟩, keys, sirc,
    index⟩ := same
  obtain ⟨⟨f1, f2, f3, f4, f5⟩, ⟨m1, m2, m3, m4⟩, ⟨a1, a2, a3⟩, sized, saltLen, credIdx⟩ := inv
  constructor
  case flags => constructor <;> simpa only [done, matched, panic, err, errinfo]
  case memories => constructor <;> simpa only [dmem, arena]
  case arenaKept => constructor <;> simpa only [arena, arenaPtr, resAddr, resLen]
  case keysSized => rwa [keys]
  case saltLen => rwa [sirc]
  case credIdxLegal => rwa [index]

theorem sameForInv_writeReg (s : State) (v : Word) (r : Reg) : s.SameForInv (s.writeReg v r) := by
  cases r <;> exact ⟨⟨rfl, rfl, rfl, rfl, rfl⟩, ⟨rfl, rfl⟩, ⟨rfl, rfl, rfl⟩, rfl, rfl, rfl⟩

/-- The state after reset has the invariant, whatever the fields that are the model's own. -/
theorem inv_afterReset (E : Engine) (s : State) : s.afterReset.Inv E where
  flags := ⟨by simp [State.reset], by simp [State.reset], by simp [State.reset],
    by simp [State.reset], by simp [State.reset]⟩
  memories := ⟨rfl, rfl, nofun, nofun⟩
  arenaKept := ⟨Nat.zero_le _, fun _ below => absurd below (Nat.not_lt_zero _), Nat.zero_le _⟩
  keysSized := nofun
  saltLen := .inl rfl
  credIdxLegal := Nat.zero_le _

/-- Settles O22: the reset state is what reset makes of itself. -/
theorem resetHasTheInvariant : Obligations.ResetHasTheInvariant :=
  inv_afterReset Config.engine State.reset

theorem engine_arenaBytes_lt : Config.engine.arenaBytes < 2 ^ 32 := by decide

theorem engine_ncredMax_lt : Config.engine.ncredMax < 2 ^ 32 := by
  have bound : Config.ncredBeyondLeast.val < 4294967285 := Config.ncredBeyondLeast.isLt
  show 10 + Config.ncredBeyondLeast.val < 2 ^ 32
  omega

/-- Settles O21: case by case of `StepTo`; a command keeps the invariant by `CommandTo.inv`, and every
other access but a DMEM write and reset leaves alone what the invariant speaks of. -/
theorem everyStepKeepsTheInvariant : Obligations.EveryStepKeepsTheInvariant := by
  intro s t inv h
  have untouched (t : State) (same : s.SameForInv t) : t.Inv Config.engine := inv.of_same same
  have taken (rest : List HostStep) : State.Inv Config.engine { s with host := rest } :=
    untouched _ ⟨⟨rfl, rfl, rfl, rfl, rfl⟩, ⟨rfl, rfl⟩, ⟨rfl, rfl, rfl⟩, rfl, rfl, rfl⟩
  cases step_next h with
  | idle => exact inv
  | ignored _ rest => exact taken rest
  | illegal w rest _ p =>
    exact (CommandTo.failed (s := { s with host := rest }) .keyLoad .illegalCommand w (by decide)).inv
      (taken rest) p engine_arenaBytes_lt engine_ncredMax_lt
  | command _ rest _ p _ _ _ ran =>
    exact (exec_commandTo ran).inv (taken rest) p engine_arenaBytes_lt engine_ncredMax_lt
  | register r v rest => exact (taken rest).of_same (sameForInv_writeReg _ v r)
  | readReg | readDmem | readArena =>
    exact untouched _ ⟨⟨rfl, rfl, rfl, rfl, rfl⟩, ⟨rfl, rfl⟩, ⟨rfl, rfl, rfl⟩, rfl, rfl, rfl⟩
  | writeDmem a v rest _ _ inside =>
    exact { taken rest with
      flags := { (taken rest).flags with }
      memories := memoriesFit_writeDmem (taken rest).memories inside
      arenaKept := { (taken rest).arenaKept with } }
  | reset rest => exact inv_afterReset Config.engine _

end Sys2Proof.Machine
end

section
/-! PROOFS. The register space and the two memories as the host sees them, and the pseudo-commands
(`10_state.md` section 2, `20_memory.md` section 7, `30_encoding.md` section 6). -/

namespace Sys2Proof.Machine

/-! ### Registers read and written -/

theorem setWidth_setWidth_byte (v : Word) : (v.setWidth 8).setWidth 32 = v &&& 0xFF := by
  apply BitVec.eq_of_getLsbD_eq
  intro k hk
  have mask : (0xFF : Word) = (BitVec.allOnes 8).setWidth 32 := rfl
  rw [mask, BitVec.getLsbD_setWidth, BitVec.getLsbD_setWidth, BitVec.getLsbD_and,
    BitVec.getLsbD_setWidth, BitVec.getLsbD_allOnes]
  simp [hk, Bool.and_comm]

/-- A read-write register reads back what was written, ADV_HDR its low 8 bits. -/
theorem readReg_writeReg_same (s : State) (v : Word) {r : Reg} (h : r.access = .readWrite) :
    (s.writeReg v r).readReg r = if r = .advHdr then v &&& 0xFF else v := by
  cases r with
  | addr | len | blkidx | credBase | credCount => rfl
  | advHdr => exact setWidth_setWidth_byte v
  | tweak n => exact wordAt_setWordAt_same s.tweak n v n.isLt
  | padval n => exact wordAt_setWordAt_same s.padval n v n.isLt
  | cmd | status | errinfo | credIdx | arenaPtr | resAddr | resLen | sircSalt | sircSaltLen
  | sircNonce | sircToken => cases h

/-- No other register of the map changes, nor another word of the same byte string. -/
theorem readReg_writeReg_other (s : State) (v : Word) {r r' : Reg} (h : r' ≠ r) :
    (s.writeReg v r).readReg r' = s.readReg r' := by
  have other_word {n m : Fin 4} (ne : m ≠ n) (b : Block) :
      wordAt (setWordAt b n v) m = wordAt b m :=
    wordAt_setWordAt_other b n m v m.isLt (Fin.val_ne_of_ne ne)
  cases r with
  | tweak n =>
    cases r' with
    | tweak m => exact other_word (fun e => h (congrArg _ e)) s.tweak
    | _ => rfl
  | padval n =>
    cases r' with
    | padval m => exact other_word (fun e => h (congrArg _ e)) s.padval
    | _ => rfl
  | addr | len | blkidx | credBase | credCount | advHdr => cases r' <;> trivial
  | cmd | status | errinfo | credIdx | arenaPtr | resAddr | resLen | sircSalt | sircSaltLen
  | sircNonce | sircToken => rfl

/-- What a register write leaves alone: the keys, both memories and the fields of the model itself. -/
theorem writeReg_frame (s : State) (v : Word) (r : Reg) :
    (s.writeReg v r).keys = s.keys ∧ (s.writeReg v r).dmem = s.dmem ∧
      (s.writeReg v r).arena = s.arena ∧ (s.writeReg v r).host = s.host ∧
      (s.writeReg v r).draws = s.draws ∧ (s.writeReg v r).readData = s.readData := by
  cases r <;> exact ⟨rfl, rfl, rfl, rfl, rfl, rfl⟩

theorem readReg_of_writeOnly (s : State) {r : Reg} (h : r.access = .writeOnly) : s.readReg r = 0 := by
  cases r with
  | cmd => rfl
  | _ => cases h

/-- A write of a read-only register is ignored in every state. -/
theorem step_writeReg_readOnly {s : State} {r : Reg} {v : Word} {rest : List HostStep}
    (e : s.host = .writeReg r.offset v :: rest) (h : r.access = .readOnly) :
    step s = .next { s with host := rest } := by
  by_cases p : s.panic = true
  · exact step_writeReg_of_panic e p r.offset_lt r.offset_aligned
  · have notCmd : r ≠ .cmd := by rintro rfl; cases h
    have notWritten : r.access ≠ .readWrite := by simp [h]
    rw [step_writeReg e (Bool.eq_false_of_not_eq_true p) notCmd, writeReg_readOnly _ _ _ notWritten]

/-- At an offset of no register a write is ignored. -/
theorem hostWriteReg_reserved {off : Nat} (h : ∀ r : Reg, r.offset ≠ off) (v : Word) (s : State) :
    hostWriteReg off v s = .next s := by
  cases p : s.panic with
  | true => exact hostWriteReg_of_panic p off v
  | false => simp only [hostWriteReg, p, Reg.at?_eq_none h, Bool.false_eq_true, if_false]

theorem registerValue_reserved {off : Nat} (h : ∀ r : Reg, r.offset ≠ off) (s : State) :
    s.registerValue off = 0 := by
  simp only [State.registerValue, Reg.at?_eq_none h]

/-- The model offers no register access that is misaligned or beyond the space (log entry 7). -/
theorem onRegister_notOffered {off : Nat} (h : 0x100 ≤ off ∨ off % 4 ≠ 0)
    (k : Host.Outcome State Fault Refusal) (t : State) : onRegister off k ≠ .next t := by
  intro answered
  obtain ⟨inside, aligned, -⟩ := onRegister_next answered
  omega

/-- Settles O7: each access right by the lemmas above. -/
theorem registerAccessRights : Obligations.RegisterAccessRights := by
  intro s v rest
  refine ⟨fun r access p e => ?readWrite, fun r access e => step_writeReg_readOnly e access,
    fun r e => ?read, fun off inside aligned none => ⟨fun e => ?reservedWrite, fun e => ?reservedRead⟩,
    fun off outside e t => ?notOffered⟩
  case readWrite =>
    have notCmd : r ≠ .cmd := by rintro rfl; cases access
    obtain ⟨keys, dmem, arena, host, draws, readData⟩ := writeReg_frame { s with host := rest } v r
    exact ⟨_, step_writeReg e p notCmd, readReg_writeReg_same _ v access,
      fun r' ne => (readReg_writeReg_other _ v ne).trans (by cases r' <;> rfl), keys, dmem, arena,
      host, draws, readData⟩
  case read =>
    rw [step_readReg_offset e]
    split
    case isTrue writeOnly => rw [readReg_of_writeOnly s writeOnly]
    case isFalse => rfl
  case reservedWrite =>
    rw [step_hostWriteReg e inside aligned, hostWriteReg_reserved none]
  case reservedRead =>
    rw [step_readReg e inside aligned, registerValue_reserved none]
  case notOffered =>
    rcases e with e | e <;> rw [step_cons e] <;> exact onRegister_notOffered outside _ t

/-- Settles O60: the map is that of `Reg.offset`, register by register in the order of `Reg.all`. -/
theorem everyRegisterReadsAtItsOffset : Obligations.EveryRegisterReadsAtItsOffset := by
  intro s rest off v e listed
  obtain ⟨r, -, entry⟩ : ∃ r ∈ Reg.all, (r.offset, s.readReg r) = (off, v) := List.mem_map.mp listed
  obtain ⟨rfl, rfl⟩ := Prod.mk.inj entry
  exact step_readReg_offset e

/-- The fields of STATUS from bit 0 up (`10_state.md` R24). -/
theorem getLsbD_statusWord (s : State) (k : Nat) :
    s.statusWord.getLsbD k =
      if k = 0 then false else if k = 1 then s.done else if k = 2 then s.matched
      else if k = 3 then s.panic else if k = 4 then s.keysValid
      else if k < 8 then false else s.err.number.getLsbD (k - 8) := by
  simp only [State.statusWord, BitVec.getLsbD_append, BitVec.getLsbD_ofBool]
  by_cases flag : k < 5
  · interval_cases k <;> simp
  · by_cases reserved : k < 8
    · interval_cases k <;> simp
    · have code : k - 1 - 1 - 1 - 1 - 1 - 3 = k - 8 := by omega
      simp only [code, show ¬ k < 1 by omega, show ¬ k - 1 < 1 by omega, show ¬ k - 1 - 1 < 1 by omega,
        show ¬ k - 1 - 1 - 1 < 1 by omega, show ¬ k - 1 - 1 - 1 - 1 < 1 by omega,
        show ¬ k - 1 - 1 - 1 - 1 - 1 < 3 by omega, show k ≠ 0 by omega, show k ≠ 1 by omega,
        show k ≠ 2 by omega, show k ≠ 3 by omega, show k ≠ 4 by omega, reserved, if_false]
      by_cases inside : k - 8 < 8
      · simp [inside]
      · simp [inside, BitVec.getLsbD_of_ge s.err.number (k - 8) (by omega)]

theorem extractLsb'_statusWord_code (s : State) : s.statusWord.extractLsb' 8 8 = s.err.number := by
  apply BitVec.eq_of_getLsbD_eq
  intro k hk
  rw [BitVec.getLsbD_extractLsb', getLsbD_statusWord]
  simp [hk, show ¬ 8 + k = 1 by omega, show ¬ 8 + k = 2 by omega, show ¬ 8 + k = 3 by omega,
    show ¬ 8 + k = 4 by omega]

/-- Bits [7:5] and [31:16] read 0. -/
theorem extractLsb'_statusWord_zero (s : State) {i n : Nat}
    (reserved : ∀ k, k < n → 5 ≤ i + k ∧ (i + k < 8 ∨ 16 ≤ i + k)) :
    s.statusWord.extractLsb' i n = 0 := by
  apply BitVec.eq_of_getLsbD_eq
  intro k hk
  obtain ⟨aboveFlags, outside⟩ := reserved k hk
  rw [BitVec.getLsbD_extractLsb', getLsbD_statusWord, if_neg (by omega), if_neg (by omega),
    if_neg (by omega), if_neg (by omega), if_neg (by omega)]
  rcases outside with below | above
  · simp [below]
  · simp [show ¬ i + k < 8 by omega, BitVec.getLsbD_of_ge s.err.number (i + k - 8) (by omega)]

/-- Settles O8: the fields one by one, and the number of each code. -/
theorem statusShowsTheFlags : Obligations.StatusShowsTheFlags := by
  intro s
  have bit (k : Nat) : (s.readReg .status).getLsbD k = s.statusWord.getLsbD k := rfl
  simp only [bit, getLsbD_statusWord]
  refine ⟨rfl, rfl, rfl, rfl, rfl, extractLsb'_statusWord_zero s (by omega),
    extractLsb'_statusWord_zero s (by omega), (extractLsb'_statusWord_code s).trans ?code⟩
  case code => cases s.err <;> rfl

/-! ### Bytes of the memories -/

theorem Memory.readByte_of_get {m : Memory} {a : Nat} {v : Byte} (h : Memory.get m a = some v) (d : Nat) :
    Memory.readByte m d a = v := by
  rw [Memory.readByte, h, Option.getD_some]

theorem Memory.readByte_of_unwritten {m : Memory} {a : Nat} (h : Memory.get m a = none) (d : Nat) :
    Memory.readByte m d a = Config.freeByte d a := by
  rw [Memory.readByte, h, Option.getD_none]

/-- Settles O9: the write and the read, and what a write of one byte leaves at each address. -/
theorem hostReadsBackTheByteItWrote : Obligations.HostReadsBackTheByteItWrote := by
  intro s a v rest e p inside
  have stored (b : Nat) : Memory.get (Memory.writeBytes s.dmem a [v]) b =
      if b = a then some v else Memory.get s.dmem b := Memory.get_set s.dmem a v b
  have found : Memory.readByte (Memory.writeBytes s.dmem a [v]) s.draws a = v :=
    Memory.readByte_of_get ((stored a).trans (if_pos rfl)) s.draws
  refine ⟨_, { s with dmem := Memory.writeBytes s.dmem a [v], draws := s.draws + 1, host := rest,
                      readData := .byte v }, step_writeDmem e p inside, ?read, rfl,
    fun b other => (stored b).trans (if_neg other), rfl⟩
  case read =>
    rw [step_readDmem (rest := rest) rfl inside]
    simp only [State.writeDmem, found]

/-- Settles O10: what `Memory.readByte` finds; in the arena only below the pointer. -/
theorem hostReadsGiveTheByteOrAFreeDraw : Obligations.HostReadsGiveTheByteOrAFreeDraw := by
  intro s a rest found
  refine ⟨fun e inside => ?dmem, fun e inside => ?arena⟩
  case dmem =>
    rw [step_readDmem e inside]
    exact ⟨fun v written => by rw [Memory.readByte_of_get written],
      fun unwritten => by rw [Memory.readByte_of_unwritten unwritten]⟩
  case arena =>
    rw [step_readArena e inside, State.arenaByte]
    exact ⟨fun v below written => by rw [if_pos below, Memory.readByte_of_get written],
      fun above => by rw [if_neg above.not_gt]⟩

/-! ### Idle, and the panic state -/

/-- Settles O11: by induction on the number of steps. -/
theorem idleEngineKeepsItsState : Obligations.IdleEngineKeepsItsState := by
  intro s k idle
  induction k with
  | zero => exact core_run_zero s
  | succ k ih => rw [core_run_succ (step_nil idle), ih]

/-- In the panic state a write of a DMEM byte is ignored. -/
theorem step_writeDmem_of_panic {s : State} {a : Nat} {v : Byte} {rest : List HostStep}
    (e : s.host = .writeDmem a v :: rest) (p : s.panic = true) (h : a < Config.engine.dmemBytes) :
    step s = .next { s with host := rest } := by
  rw [step_cons e, hostAccess, hostWriteDmem, if_neg h.not_ge, if_pos p]

/-- Settles O17: the two writes are ignored; a read does not look at PANIC. -/
theorem panicIgnoresEveryWrite : Obligations.PanicIgnoresEveryWrite := fun _ _ p =>
  ⟨fun _ _ e inside aligned => step_writeReg_of_panic e p inside aligned,
    fun _ _ e inside => step_writeDmem_of_panic e p inside,
    fun _ e inside aligned => ⟨_, step_readReg e inside aligned⟩,
    fun _ e inside => ⟨_, step_readDmem e inside⟩, fun _ e inside => ⟨_, step_readArena e inside⟩⟩

/-! ### Pseudo-commands -/

/-- A register whose four words are those of a block holds the block. -/
theorem block_eq_of_wordAt {a b : Block} (h : ∀ n, n < 4 → wordAt a n = wordAt b n) : a = b := by
  apply BitVec.eq_of_getLsbD_eq
  intro k hk
  have bit := congrArg (fun x : Word => x.getLsbD (k % 32)) (h (k / 32) (by omega))
  have inside : k % 32 < 32 := Nat.mod_lt _ (by decide)
  simpa only [getLsbD_wordAt, inside, decide_true, Bool.true_and, Nat.div_add_mod] using bit

/-- A register whose words are replaced one after the other holds the new block. -/
theorem setWordAt_four (v b : Block) :
    setWordAt (setWordAt (setWordAt (setWordAt v 0 (wordAt b 0)) 1 (wordAt b 1)) 2 (wordAt b 2)) 3
      (wordAt b 3) = b := by
  apply block_eq_of_wordAt
  intro n hn
  have cases_n : n = 0 ∨ n = 1 ∨ n = 2 ∨ n = 3 := by omega
  rcases cases_n with rfl | rfl | rfl | rfl <;>
    simp [wordAt_setWordAt_same, wordAt_setWordAt_other]

/-- Byte k of word n is byte 4n + k (`20_memory.md` R61). -/
theorem extractLsb'_wordAt {w : Nat} (v : BitVec w) (n : Nat) {k : Nat} (hk : k < 4) :
    (wordAt v n).extractLsb' (8 * k) 8 = byteAt v (4 * n + k) := by
  apply BitVec.eq_of_getLsbD_eq
  intro i hi
  have inside : 8 * k + i < 32 := by omega
  have position : 32 * n + (8 * k + i) = 8 * (4 * n + k) + i := by omega
  rw [BitVec.getLsbD_extractLsb', getLsbD_wordAt, getLsbD_byteAt _ _ hi, position]
  simp only [hi, inside, decide_true, Bool.true_and]

theorem toNat_wordAt {w : Nat} (v : BitVec w) (n : Nat) :
    (wordAt v n).toNat = v.toNat / 2 ^ (32 * n) % 2 ^ 32 := by
  rw [wordAt, BitVec.extractLsb'_toNat, Nat.shiftRight_eq_div_pow]

/-- `le128` of a block's bytes from its four words (`20_memory.md` R62). -/
theorem toNat_eq_words (v : Block) : v.toNat = (wordAt v 0).toNat + 2 ^ 32 * (wordAt v 1).toNat +
    2 ^ 64 * (wordAt v 2).toNat + 2 ^ 96 * (wordAt v 3).toNat := by
  have bound : v.toNat < 2 ^ 128 := v.isLt
  simp only [toNat_wordAt]
  omega

theorem writeReg_setHost (s : State) (rest : List HostStep) (v : Word) (r : Reg) :
    ({ s.writeReg v r with host := rest } : State) = State.writeReg { s with host := rest } v r := by
  cases r <;> rfl

/-- Values written to registers, the first of the list first. -/
def State.writeRegs (s : State) (ws : List (Reg × Word)) : State :=
  ws.foldl (fun t w => t.writeReg w.2 w.1) s

/-- The four words of a block, each for one register. -/
def wordsTo (r : Fin 4 → Reg) (b : Block) : List (Reg × Word) :=
  [(r 0, wordAt b 0), (r 1, wordAt b 1), (r 2, wordAt b 2), (r 3, wordAt b 3)]

theorem writeRegs_tweak (s : State) (b : Block) :
    s.writeRegs (wordsTo .tweak b) = { s with tweak := b } := by
  simp [State.writeRegs, wordsTo, State.writeReg, setWordAt_four]

theorem writeRegs_padval (s : State) (b : Block) :
    s.writeRegs (wordsTo .padval b) = { s with padval := b } := by
  simp [State.writeRegs, wordsTo, State.writeReg, setWordAt_four]

/-- Writes of read-write registers, one after the other. -/
theorem run_writes {ws : List (Reg × Word)} {s : State} {rest : List HostStep}
    (access : ∀ w ∈ ws, w.1.access = .readWrite) (p : s.panic = false)
    (e : s.host = (ws.map fun w => .writeReg w.1.offset w.2) ++ rest) :
    core.run ws.length s = .next (State.writeRegs { s with host := rest } ws) := by
  induction ws generalizing s with
  | nil =>
    have taken : s.host = rest := e
    subst taken
    exact core_run_zero s
  | cons w ws ih =>
    obtain ⟨first, others⟩ := List.forall_mem_cons.mp access
    have notCmd : w.1 ≠ .cmd := fun cmd => by rw [cmd] at first; cases first
    let s' : State := { s with host := (ws.map fun w => .writeReg w.1.offset w.2) ++ rest }
    have written : step s = .next (s'.writeReg w.2 w.1) := step_writeReg e p notCmd
    obtain ⟨-, -, -, host, -, -⟩ := writeReg_frame s' w.2 w.1
    obtain ⟨⟨-, -, panic, -, -⟩, -, -, -, -, -⟩ := sameForInv_writeReg s' w.2 w.1
    rw [List.length_cons, core_run_succ written, ih others (panic.trans p) host, writeReg_setHost]
    rfl

/-- Settles O13: the four writes replace the four words. -/
theorem wrTweakAndPadvalWriteSixteenBytes : Obligations.WrTweakAndPadvalWriteSixteenBytes := by
  intro s b rest p
  refine ⟨fun e => ?tweak, fun e => ?padval, fun n k _ hk => extractLsb'_wordAt b n hk,
    fun n k hk => ⟨extractLsb'_wordAt _ n hk, extractLsb'_wordAt _ n hk, extractLsb'_wordAt _ n hk,
      extractLsb'_wordAt _ n hk⟩, fun n k hk => extractLsb'_wordAt _ n hk, toNat_eq_words s.tweak⟩
  case tweak =>
    have run := run_writes (ws := wordsTo .tweak b) (by simp [wordsTo, Reg.access]) p e
    rwa [writeRegs_tweak] at run
  case padval =>
    have run := run_writes (ws := wordsTo .padval b) (by simp [wordsTo, Reg.access]) p e
    rwa [writeRegs_padval] at run

/-- Settles O14: BLKIDX is written, and TWK_ADV advances TWEAK by it. -/
theorem twkToAdvancesTheTweak : Obligations.TwkToAdvancesTheTweak := by
  intro s k rest p e
  have written : step s = .next { s with host := asmCommand .twkAdv ++ rest, blkidx := k } :=
    step_writeReg (r := .blkidx) e p (by decide)
  have advanced := step_command (s := { s with host := asmCommand .twkAdv ++ rest, blkidx := k })
    (rest := rest) rfl p (decodeWord_encodeWord .twkAdv)
  refine ⟨twkAdv Config.engine { s with host := rest, blkidx := k }, ?run, rfl, rfl, rfl, rfl, ?tweak⟩
  case run => rw [core_run_succ written, core_run_succ advanced, core_run_zero]
  case tweak => exact (twkAdv_tweak ..).trans (advance_eq_iterate ..)

/-! ### The keys cannot be read back -/

/-- STATUS shows that the slots hold a value, and no register shows which. -/
theorem registerValue_setKeys (s : State) (k k' : LdtKey) (off : Nat) :
    (s.setKeys k').registerValue off = (s.setKeys k).registerValue off := by
  rw [State.registerValue, State.registerValue]
  cases Reg.at? off with
  | none => rfl
  | some r => cases r <;> rfl

theorem writeReg_setKeys (s : State) (k : LdtKey) (v : Word) (r : Reg) :
    (s.setKeys k).writeReg v r = (s.writeReg v r).setKeys k := by
  cases r <;> rfl

/-- What a write of a register other than CMD leaves does not depend on the keys. -/
theorem hostWriteReg_setKeys {off : Nat} (notCmd : off ≠ Reg.cmd.offset) (v : Word) (s : State) :
    ∃ t : State, ∀ k, hostWriteReg off v (s.setKeys k) = .next (t.setKeys k) := by
  by_cases p : s.panic = true
  · exact ⟨s, fun k => hostWriteReg_of_panic (s := s.setKeys k) p off v⟩
  · cases at_off : Reg.at? off with
    | none => exact ⟨s, fun k => by simp [hostWriteReg, p, at_off]⟩
    | some r =>
      refine ⟨s.writeReg v r, fun k => ?_⟩
      have ne : r ≠ .cmd := fun cmd => notCmd (by rw [← Reg.offset_of_at? at_off, cmd])
      cases r with
      | cmd => exact absurd rfl ne
      | _ => simp [hostWriteReg, p, at_off, writeReg_setKeys]

/-- With one key or another in the slots an access other than a write of CMD and reset leaves the same
state but for the key, or it is not offered. -/
theorem hostAccess_setKeys {h : HostStep} (notCmd : ∀ off v, h = .writeReg off v → off ≠ 0x000)
    (notReset : h ≠ .reset) (s : State) (k k' : LdtKey) :
    (∃ t : State, hostAccess h (s.setKeys k) = .next (t.setKeys k) ∧
      hostAccess h (s.setKeys k') = .next (t.setKeys k')) ∨
    ∀ t, hostAccess h (s.setKeys k) ≠ .next t := by
  cases h with
  | writeReg off v =>
    by_cases outside : 0x100 ≤ off ∨ off % 4 ≠ 0
    · exact .inr (onRegister_notOffered outside _)
    · obtain ⟨t, written⟩ := hostWriteReg_setKeys (notCmd off v rfl) v s
      have offered := onRegister_offered (off := off) (by omega) (by omega)
      exact .inl ⟨t, (offered _).trans (written k), (offered _).trans (written k')⟩
  | readReg off =>
    by_cases outside : 0x100 ≤ off ∨ off % 4 ≠ 0
    · exact .inr (onRegister_notOffered outside _)
    · have offered := onRegister_offered (off := off) (by omega) (by omega)
      refine .inl ⟨{ s with readData := .word ((s.setKeys k).registerValue off) }, offered _, ?_⟩
      rw [hostAccess, offered, registerValue_setKeys s k k']
      rfl
  | writeDmem a v =>
    by_cases outside : Config.engine.dmemBytes ≤ a
    · exact .inr fun t => by simp [hostAccess, hostWriteDmem, outside]
    · by_cases p : s.panic = true
      · exact .inl ⟨s, by simp [hostAccess, hostWriteDmem, outside, p],
          by simp [hostAccess, hostWriteDmem, outside, p]⟩
      · exact .inl ⟨s.writeDmem a [v], by simp [hostAccess, hostWriteDmem, outside, p]; rfl,
          by simp [hostAccess, hostWriteDmem, outside, p]; rfl⟩
  | readDmem a =>
    by_cases outside : Config.engine.dmemBytes ≤ a
    · exact .inr fun t => by simp [hostAccess, hostReadDmem, outside]
    · exact .inl ⟨{ s.nextDraw with readData := .byte (Memory.readByte s.dmem s.draws a) },
        if_neg outside, if_neg outside⟩
  | readArena a =>
    by_cases outside : Config.engine.arenaBytes ≤ a
    · exact .inr fun t => by simp [hostAccess, hostReadArena, outside]
    · exact .inl ⟨{ s.nextDraw with readData := .byte (s.arenaByte a) },
        if_neg outside, if_neg outside⟩
  | reset => exact absurd rfl notReset

/-- Settles O23: the access by `hostAccess_setKeys`; reset empties the slots. -/
theorem keysCannotBeReadBack : Obligations.KeysCannotBeReadBack := by
  intro s k k' h rest e notCmd t answered
  rw [step_cons (s := { s with keys := some k }) e] at answered
  rw [step_cons (s := { s with keys := some k' }) e]
  by_cases isReset : h = .reset
  · subst isReset
    cases answered
    exact ⟨_, rfl, rfl, fun ne => absurd rfl ne, fun _ => rfl⟩
  · rcases hostAccess_setKeys notCmd isReset { s with host := rest } k k' with
      ⟨u, with_k, with_k'⟩ | notOffered
    · cases with_k.symm.trans answered
      exact ⟨u.setKeys k', with_k', rfl, fun _ => ⟨rfl, rfl⟩, fun reset => absurd reset isReset⟩
    · exact absurd answered (notOffered t)

end Sys2Proof.Machine
end

section
/-! PROOFS. What each command may write and what no command reads: the panic state, the flags, the
registers, keys and memories (`10_state.md` sections 2, 5, 7 and 8, `60_exceptions.md` section 2). -/

namespace Sys2Proof.Machine

/-! ### The panic state -/

/-- Only the panic entry of PAD sets PANIC. -/
theorem CommandTo.panic_eq {E : Engine} {s t : State} {i : Instr} (h : CommandTo E s i t) :
    t.panic = s.panic ∨ (t.err = .panic ∧ ∃ p, i = .pad p ∧ 15 < s.len.toNat) := by
  cases h with
  | panicked p long => exact .inr ⟨rfl, p, rfl, long⟩
  | delivered => rw [delivered_eq]; exact .inl rfl
  | failed | tweak | keys | buffer | noMatch | noRoom | arenaReset => exact .inl rfl

theorem longPad_of_pad {s : State} {p : Padder} {w : Word} (d : decodeWord w = .ok (.pad p))
    (long : 15 < s.len.toNat) : (HostStep.writeReg 0x000 w).longPad s = true := by
  cases p <;> simp [HostStep.longPad, d, long]

/-- Settles O16: PAD by its first test, the commands by `CommandTo`, and of the accesses only a write
of CMD runs a command. -/
theorem onlyALongPadPanics : Obligations.OnlyALongPadPanics := by
  have command {i : Instr} {s t : State} (ran : exec i s = .next t) (before : s.panic = false)
      (after : t.panic = true) : ∃ p, i = .pad p ∧ 15 < s.len.toNat := by
    rcases (exec_commandTo ran).panic_eq with kept | ⟨-, long⟩
    · simp [kept, before] at after
    · exact long
  refine ⟨fun p s long => ?long, fun i s t => command, fun s t h before after => ?step⟩
  case long =>
    exact (exec_eq (.pad p) s).trans (congrArg Host.Outcome.next (pad_of_long long))
  case step =>
    cases step_next h with
    | command w rest e _ i d _ ran =>
      obtain ⟨p, rfl, long⟩ := command ran before after
      exact ⟨_, rest, e, longPad_of_pad d long⟩
    | register r v rest =>
      obtain ⟨⟨-, -, kept, -, -⟩, -, -, -, -, -⟩ := sameForInv_writeReg { s with host := rest } v r
      exact absurd (before.symm.trans (kept.symm.trans after)) Bool.false_ne_true
    | idle | ignored | illegal | readReg | writeDmem | readDmem | readArena =>
      exact absurd (before.symm.trans after) Bool.false_ne_true
    | reset => cases after

/-! ### Deliveries -/

theorem deliver_of_noRoom {E : Engine} {s : State} {pt : Bytes}
    (h : E.arenaBytes < s.arenaPtr.toNat + pt.length) :
    deliver E pt s = s.raise .arenaOutOfSpace (BitVec.ofNat 32 pt.length) := by
  rw [deliver, allocate, if_pos h]

/-- A delivery with room for it, field by field (`45_resolve.md` R239). -/
theorem deliver_of_room {E : Engine} {s : State} {pt : Bytes}
    (h : s.arenaPtr.toNat + pt.length ≤ E.arenaBytes) :
    deliver E pt s =
      { s with arena := Memory.writeBytes s.arena s.arenaPtr.toNat pt,
               arenaPtr := BitVec.ofNat 32 (s.arenaPtr.toNat + pt.length), resAddr := s.arenaPtr,
               resLen := BitVec.ofNat 32 pt.length, done := true, matched := true, err := .ok,
               errinfo := 0 } := by
  rw [deliver, allocate, if_neg h.not_gt]
  simp only [State.setArenaPtr, State.writeArena, State.setResult, State.succeedMatch_eq_finish,
    State.finish_eq, BitVec.ofNat_toNat, BitVec.setWidth_eq]

/-! ### The flags -/

/-- Every ending but a panic sets DONE, and only a delivery sets MATCH. -/
theorem CommandTo.flags {E : Engine} {s t : State} {i : Instr} (h : CommandTo E s i t)
    (notPanic : t.err ≠ .panic) :
    t.done = true ∧ (t.matched = true → t.err = .ok ∧ Resolves i) ∧ t.panic = s.panic := by
  cases h with
  | panicked => exact absurd rfl notPanic
  | delivered _ resolves =>
    rw [delivered_eq]
    exact ⟨rfl, fun _ => ⟨rfl, resolves⟩, rfl⟩
  | failed | tweak | keys | buffer | noMatch | noRoom | arenaReset => exact ⟨rfl, nofun, rfl⟩

/-! ### What a command may write -/

/-- The column "written by engine in" of the register map (`10_state.md` R22), for one command. -/
structure WritesOnlyItsOwn (i : Instr) (s t : State) : Prop where
  operands : t.addr = s.addr ∧ t.len = s.len ∧ t.blkidx = s.blkidx ∧ t.credBase = s.credBase ∧
    t.credCount = s.credCount ∧ t.advHdr = s.advHdr ∧ t.padval = s.padval
  hostSide : t.host = s.host ∧ t.readData = s.readData
  tweak : ¬ WritesTweak i → t.tweak = s.tweak
  keys : i ≠ .keyLoad → t.keys = s.keys
  dmem : ¬ WritesBuffer i → t.dmem = s.dmem
  arena : ¬ Resolves i → t.arena = s.arena
  results : ¬ Resolves i → t.credIdx = s.credIdx ∧ t.resAddr = s.resAddr ∧ t.resLen = s.resLen
  sirc : ¬ Resolves i → t.sircSalt = s.sircSalt ∧ t.sircSaltLen = s.sircSaltLen ∧
    t.sircNonce = s.sircNonce ∧ t.sircToken = s.sircToken
  arenaPtr : ¬ Resolves i → i ≠ .arenaReset → t.arenaPtr = s.arenaPtr

theorem WritesOnlyItsOwn.refl (i : Instr) (s : State) : WritesOnlyItsOwn i s s :=
  ⟨⟨rfl, rfl, rfl, rfl, rfl, rfl, rfl⟩, ⟨rfl, rfl⟩, fun _ => rfl, fun _ => rfl, fun _ => rfl,
    fun _ => rfl, fun _ => ⟨rfl, rfl, rfl⟩, fun _ => ⟨rfl, rfl, rfl, rfl⟩, fun _ _ => rfl⟩

theorem CommandTo.writesOnlyItsOwn {E : Engine} {s t : State} {i : Instr} (h : CommandTo E s i t) :
    WritesOnlyItsOwn i s t := by
  have same := WritesOnlyItsOwn.refl i s
  cases h with
  | failed | panicked => exact { same with }
  | tweak _ writes => exact { same with tweak := absurd writes }
  | keys => exact { same with keys := absurd rfl }
  | buffer _ writes => exact { same with dmem := absurd writes }
  | noMatch _ resolves | noRoom _ resolves =>
    exact { same with results := absurd resolves, sirc := absurd resolves }
  | delivered _ resolves =>
    rw [delivered_eq]
    exact { same with
      arena := absurd resolves, results := absurd resolves, sirc := absurd resolves
      arenaPtr := absurd resolves }
  | arenaReset => exact { same with arenaPtr := fun _ => absurd rfl }

/-- Settles O20: the frame of every command by `CommandTo`. -/
theorem eachCommandWritesOnlyItsOwnState : Obligations.EachCommandWritesOnlyItsOwnState := by
  intro i s t ran
  obtain ⟨⟨addr, len, blkidx, credBase, credCount, advHdr, padval⟩, ⟨host, readData⟩, tweak, keys, dmem,
    arena, results, sirc, arenaPtr⟩ := (exec_commandTo ran).writesOnlyItsOwn
  refine ⟨⟨addr, len, blkidx, credBase, credCount, advHdr, padval, host, readData⟩,
    fun notStep notAdv notMix notPad => tweak ?tweak, keys,
    fun notEnc notDec notLdtEnc notLdtDec a => congrArg (Memory.get · a) (dmem ?buffer),
    fun notV0 notV1 => ?resolve⟩
  case tweak =>
    rintro (step | adv | mix | ⟨p, pad⟩)
    exacts [notStep step, notAdv adv, notMix mix, notPad p pad]
  case buffer =>
    rintro (⟨k, enc⟩ | ⟨k, dec⟩ | ⟨p, enc⟩ | ⟨p, dec⟩)
    exacts [notEnc k enc, notDec k dec, notLdtEnc p enc, notLdtDec p dec]
  case resolve =>
    have notResolves : ¬ Resolves i := by
      rintro (⟨p, v0⟩ | ⟨l, m, v1⟩)
      exacts [notV0 p v0, notV1 l m v1]
    obtain ⟨credIdx, resAddr, resLen⟩ := results notResolves
    obtain ⟨salt, saltLen, nonce, token⟩ := sirc notResolves
    exact ⟨fun a => congrArg (Memory.get · a) (arena notResolves), credIdx, resAddr, resLen, salt,
      saltLen, nonce, token, arenaPtr notResolves⟩

/-! ### What a RESOLVE command does not read -/

/-- `f` changes only state the RESOLVE commands do not read, and `g` is what is left of the change when
such a command ends. -/
structure Unread (E : Engine) (f g : State → State) : Prop where
  operands : ∀ s, (f s).addr = s.addr ∧ (f s).len = s.len ∧ (f s).credBase = s.credBase ∧
    (f s).credCount = s.credCount
  buffer : ∀ s, (f s).buffer = s.buffer
  entry : ∀ s i, (f s).credEntry E i = s.credEntry E i
  draw : ∀ s, (f s).nextDraw = f s.nextDraw
  sirc : ∀ s salt n nonce token, (f s).setSirc salt n nonce token = f (s.setSirc salt n nonce token)
  idx : ∀ s w, (f s).setCredIdx w = f (s.setCredIdx w)
  raise : ∀ s c w, (f s).raise c w = g (s.raise c w)
  deliver : ∀ s pt, deliver E pt (f s) = g (deliver E pt s)

namespace Unread

variable {E : Engine} {f g : State → State}

theorem resolveFrom_map (h : Unread E f g) (attempt : CredEntry → Option Bytes) (left : Nat) :
    ∀ i s, resolveFrom E attempt i left (f s) = g (resolveFrom E attempt i left s) := by
  induction left with
  | zero => intro i s; rw [resolveFrom, resolveFrom, h.idx, h.raise]
  | succ left ih =>
    intro i s
    rw [resolveFrom, resolveFrom, h.entry, h.draw]
    cases attempt (s.credEntry E i) with
    | none => exact ih (i + 1) s.nextDraw
    | some pt => simp only [h.idx, h.deliver]

theorem resolve_map (h : Unread E f g) (legal : Nat → Bool) {record : Bytes → State → State}
    (recorded : ∀ bs s, record bs (f s) = f (record bs s))
    (attempt : Bytes → CredEntry → Option Bytes) (s : State) :
    resolve E legal record attempt (f s) = g (resolve E legal record attempt s) := by
  obtain ⟨addr, len, credBase, credCount⟩ := h.operands s
  have count : (f (record s.buffer s.nextDraw)).credCount = (record s.buffer s.nextDraw).credCount :=
    (h.operands _).2.2.2
  simp only [resolve, addr, len, credBase, credCount, h.buffer, h.draw, recorded, resolveLoop,
    count, h.resolveFrom_map, State.raiseRange, h.raise, apply_ite g]

theorem resolveV0_map (h : Unread E f g) (p : Padder) (s : State) (padval : (f s).padval = s.padval) :
    resolveV0 E p (f s) = g (resolveV0 E p s) := by
  rw [resolveV0, resolveV0, padval]
  exact h.resolve_map _ (fun _ _ => h.sirc ..) _ s

theorem resolveV1_map (h : Unread E f g) (salt : SaltKind) (mode : VerifyMode) (s : State)
    (advHdr : (f s).advHdr = s.advHdr) : resolveV1 E salt mode (f s) = g (resolveV1 E salt mode s) := by
  rw [resolveV1, resolveV1, advHdr]
  exact h.resolve_map _ (fun _ _ => h.sirc ..) _ s

end Unread

/-- The key slots and TWEAK written over. -/
def State.withKeysTweak (k : Option LdtKey) (x : Block) (s : State) : State :=
  { s with keys := k, tweak := x }

/-- The four flags a command leaves written over. -/
def State.withFlags (d m : Bool) (e : ErrCode) (w : Word) (s : State) : State :=
  { s with done := d, matched := m, err := e, errinfo := w }

theorem unread_keysTweak (E : Engine) (k : Option LdtKey) (x : Block) :
    Unread E (State.withKeysTweak k x) (State.withKeysTweak k x) where
  operands _ := ⟨rfl, rfl, rfl, rfl⟩
  buffer _ := rfl
  entry _ _ := rfl
  draw _ := rfl
  sirc _ _ _ _ _ := rfl
  idx _ _ := rfl
  raise _ _ _ := rfl
  deliver s pt := by
    by_cases room : s.arenaPtr.toNat + pt.length ≤ E.arenaBytes
    · rw [deliver_of_room room, deliver_of_room (s := State.withKeysTweak k x s) room]
      rfl
    · rw [deliver_of_noRoom (not_le.mp room),
        deliver_of_noRoom (s := State.withKeysTweak k x s) (not_le.mp room)]
      rfl

theorem unread_flags (E : Engine) (d m : Bool) (e : ErrCode) (w : Word) :
    Unread E (State.withFlags d m e w) id where
  operands _ := ⟨rfl, rfl, rfl, rfl⟩
  buffer _ := rfl
  entry _ _ := rfl
  draw _ := rfl
  sirc _ _ _ _ _ := rfl
  idx _ _ := rfl
  raise _ _ _ := rfl
  deliver s pt := by
    by_cases room : s.arenaPtr.toNat + pt.length ≤ E.arenaBytes
    · rw [deliver_of_room room, deliver_of_room (s := State.withFlags d m e w s) room]
      rfl
    · rw [deliver_of_noRoom (not_le.mp room),
        deliver_of_noRoom (s := State.withFlags d m e w s) (not_le.mp room)]
      rfl

/-- Settles O24: neither the tests, the entries nor a delivery reads the slots or TWEAK. -/
theorem resolveIgnoresKeysAndTweak : Obligations.ResolveIgnoresKeysAndTweak := by
  intro s k x i resolves
  have unread := unread_keysTweak Config.engine k x
  refine ⟨_, exec_eq i s, (exec_eq i _).trans (congrArg Host.Outcome.next ?_)⟩
  rcases resolves with ⟨p, rfl⟩ | ⟨l, m, rfl⟩
  · exact unread.resolveV0_map p s rfl
  · exact unread.resolveV1_map l m s rfl

/-- No command reads DONE, MATCH, ERR or ERRINFO (`10_state.md` R28). -/
theorem result_withFlags (E : Engine) (i : Instr) (d m : Bool) (e : ErrCode) (w : Word) (s : State) :
    result E i (s.withFlags d m e w) = result E i s := by
  have unread := unread_flags E d m e w
  cases i with
  | resolveV0 p => exact unread.resolveV0_map p s rfl
  | resolveV1 l mode => exact unread.resolveV1_map l mode s rfl
  | keyLoad | twkStep | twkAdv | mix | pad | xtsEnc | xtsDec | ldtEnc | ldtDec | arenaReset => rfl

/-- Settles O18: the flags of each ending, and the commands on a state with other flags. -/
theorem flagsDescribeTheLastCommandOnly : Obligations.FlagsDescribeTheLastCommandOnly :=
  ⟨fun _ _ _ ran notPanic => (exec_commandTo ran).flags notPanic, fun i s d m e w => by
    rw [exec_eq, exec_eq]
    exact congrArg Host.Outcome.next (result_withFlags Config.engine i d m e w s)⟩

end Sys2Proof.Machine
end

section
/-! PROOFS. The padders are injective (`42_padding.md` R173). -/

namespace Sys2Proof.Machine

/-- The marker stands behind the tail, and only zeros behind the marker. -/
theorem length_le_of_padDefault_eq {a b : Bytes} (ha : a.length ≤ 15) (hb : b.length ≤ 15)
    (h : padDefault a = padDefault b) : b.length ≤ a.length := by
  by_contra longer
  have marker := congrArg (byteAt · b.length) h
  simp only [byteAt_padDefault ha, byteAt_padDefault hb, lt_self_iff_false, if_true, if_false] at marker
  rw [if_neg (by omega), if_neg (by omega)] at marker
  exact absurd marker (by decide)

theorem padDefault_injective {a b : Bytes} (ha : a.length ≤ 15) (hb : b.length ≤ 15)
    (h : padDefault a = padDefault b) : a = b := by
  have length : a.length = b.length :=
    (length_le_of_padDefault_eq hb ha h.symm).antisymm (length_le_of_padDefault_eq ha hb h)
  apply List.ext_getElem length
  intro i ia ib
  have byte := congrArg (byteAt · i) h
  simpa only [byteAt_padDefault ha, byteAt_padDefault hb, ia, ib, if_true, List.getD_eq_getElem] using byte

/-- Settles O31: XOR with the pad value cancels, and the default padder is injective. -/
theorem paddersAreInjective : Obligations.PaddersAreInjective := by
  refine ⟨fun v tail => ?cancels, fun tail => BitVec.xor_zero, fun p v a b ha hb h => ?injective⟩
  case cancels => rw [padXor, BitVec.xor_assoc, BitVec.xor_self, BitVec.xor_zero]
  case injective =>
    cases p with
    | default => exact padDefault_injective ha hb h
    | xor => exact padDefault_injective ha hb ((BitVec.xor_left_inj v).mp h)

end Sys2Proof.Machine
end

section
/-! PROOFS. Decryption and encryption of a data unit undo each other (`41_xts.md` section 3). -/

namespace Sys2Proof.Machine

/-! ### Data units, for any function of blocks -/

/-- The first m blocks of a byte string, each under its own function. -/
def mapBlocks (f : Nat → Block → Block) (u : Bytes) (m : Nat) : Bytes :=
  (List.range m).flatMap fun j => blockBytes (f j (unitBlock u j))

/-- The last whole block of m under function p and then, with the b further bytes of the string, under
function q (`41_xts.md` R147): encryption and decryption differ only in the order of the masks. -/
def mapSteal (f : Nat → Block → Block) (p q : Nat) (u : Bytes) (m b : Nat) : Bytes :=
  let cc := blockBytes (f p (unitBlock u (m - 1)))
  blockBytes (f q (blockOfBytes (u.drop (16 * m) ++ cc.drop b))) ++ cc.take b

theorem encBlocks_eq_mapBlocks (E : Engine) (x : XtsKey) (t : Block) (u : Bytes) (m : Nat) :
    encBlocks E x t u m = mapBlocks (fun j => blkEnc E x.primary (mask E x t j)) u m := rfl

theorem decBlocks_eq_mapBlocks (E : Engine) (x : XtsKey) (t : Block) (u : Bytes) (m : Nat) :
    decBlocks E x t u m = mapBlocks (fun j => blkDec E x.primary (mask E x t j)) u m := rfl

theorem encSteal_eq_mapSteal (E : Engine) (x : XtsKey) (t : Block) (u : Bytes) (m b : Nat) :
    encSteal E x t u m b =
      mapSteal (fun j => blkEnc E x.primary (mask E x t j)) (m - 1) m u m b := rfl

theorem decSteal_eq_mapSteal (E : Engine) (x : XtsKey) (t : Block) (u : Bytes) (m b : Nat) :
    decSteal E x t u m b =
      mapSteal (fun j => blkDec E x.primary (mask E x t j)) m (m - 1) u m b := rfl

theorem length_mapBlocks (f : Nat → Block → Block) (u : Bytes) (m : Nat) :
    (mapBlocks f u m).length = 16 * m := length_flatMap_blockBytes _ m

theorem blockBytes_unitBlock {u : Bytes} {j : Nat} (h : 16 * j + 16 ≤ u.length) :
    blockBytes (unitBlock u j) = slice u (16 * j) (16 * j + 16) :=
  blockBytes_blockOfBytes _ (by rw [length_slice]; omega)

/-- The blocks of a byte string, laid out again. -/
theorem mapBlocks_id {u : Bytes} {m : Nat} (h : 16 * m ≤ u.length) :
    mapBlocks (fun _ b => b) u m = u.take (16 * m) := by
  induction m with
  | zero => rfl
  | succ m ih =>
    have step : mapBlocks (fun _ b => b) u (m + 1) =
        mapBlocks (fun _ b => b) u m ++ blockBytes (unitBlock u m) := by
      simp [mapBlocks, List.range_succ, List.flatMap_append]
    rw [step, ih (by omega), blockBytes_unitBlock (by omega), slice, Nat.add_sub_cancel_left,
      Nat.mul_succ, List.take_add]

/-- Inverse functions of blocks undo each other on the blocks of a string, whatever follows them. -/
theorem mapBlocks_mapBlocks {f g : Nat → Block → Block} (inverse : ∀ j b, g j (f j b) = b) {u : Bytes}
    {m : Nat} (h : 16 * m ≤ u.length) (rest : Bytes) :
    mapBlocks g (mapBlocks f u m ++ rest) m = u.take (16 * m) := by
  rw [← mapBlocks_id h]
  refine List.flatMap_congr fun j hj => ?_
  have block : unitBlock (mapBlocks f u m ++ rest) j = f j (unitBlock u j) :=
    unitBlock_flatMap_append _ m j rest (List.mem_range.mp hj)
  rw [block, inverse]

/-- With the functions in the other order, stealing gives back what was stolen (`41_xts.md` R148). -/
theorem mapSteal_mapSteal {f g : Nat → Block → Block} (inverse : ∀ j b, g j (f j b) = b) {p q : Nat}
    {u : Bytes} {m b : Nat} (hm : 1 ≤ m) (length : u.length = 16 * m + b) (hb : b ≤ 15) {front : Bytes}
    (hf : front.length = 16 * (m - 1)) :
    mapSteal g q p (front ++ mapSteal f p q u m b) m b = u.drop (16 * (m - 1)) := by
  generalize hcc : blockBytes (f p (unitBlock u (m - 1))) = cc
  have cc_length : cc.length = 16 := by rw [← hcc, length_blockBytes]
  generalize hpp : u.drop (16 * m) ++ cc.drop b = pp
  have tail_length : (u.drop (16 * m)).length = b := by rw [List.length_drop]; omega
  have pp_length : pp.length = 16 := by
    rw [← hpp, List.length_append, tail_length, List.length_drop]
    omega
  have stolen : mapSteal f p q u m b = blockBytes (f q (blockOfBytes pp)) ++ cc.take b := by
    simp only [mapSteal, hcc, hpp]
  have last : (front ++ mapSteal f p q u m b).drop (16 * m) = cc.take b := by
    rw [stolen, ← List.append_assoc]
    exact List.drop_left' (by rw [List.length_append, hf, length_blockBytes]; omega)
  have block : unitBlock (front ++ mapSteal f p q u m b) (m - 1) = f q (blockOfBytes pp) := by
    rw [stolen, unitBlock_append_blockBytes hf]
  have pp_drop : pp.drop b = cc.drop b := by rw [← hpp, List.drop_left' tail_length]
  have pp_take : pp.take b = u.drop (16 * m) := by rw [← hpp, List.take_left' tail_length]
  have whole : 16 * (m - 1) + 16 = 16 * m := by omega
  calc mapSteal g q p (front ++ mapSteal f p q u m b) m b
      = blockBytes (g p (blockOfBytes (cc.take b ++ pp.drop b))) ++ pp.take b := by
        rw [mapSteal, block, last, inverse, blockBytes_blockOfBytes pp pp_length]
    _ = blockBytes (unitBlock u (m - 1)) ++ u.drop (16 * m) := by
        rw [pp_drop, List.take_append_drop, pp_take, ← hcc, blockOfBytes_blockBytes, inverse]
    _ = slice u (16 * (m - 1)) (16 * m) ++ u.drop (16 * m) := by
        rw [blockBytes_unitBlock (by omega), whole]
    _ = u.drop (16 * (m - 1)) := slice_append_drop u (by omega)

/-- A data unit with m whole blocks and b further bytes: its front blocks and its stealing part undone
by the inverse functions, the masks of the stealing part in the other order. -/
theorem mapUnit_mapUnit {f g : Nat → Block → Block} (inverse : ∀ j b, g j (f j b) = b) {p q : Nat}
    {u : Bytes} {m b : Nat} (hm : 1 ≤ m) (length : u.length = 16 * m + b) (hb : b ≤ 15) :
    let c := mapBlocks f u (m - 1) ++ mapSteal f p q u m b
    mapBlocks g c (m - 1) ++ mapSteal g q p c m b = u := by
  intro c
  rw [mapBlocks_mapBlocks inverse (by omega),
    mapSteal_mapSteal inverse hm length hb (length_mapBlocks f u (m - 1)), List.take_append_drop]

/-! ### The cipher -/

theorem xtsDecUnit_of_partial (E : Engine) (x : XtsKey) (t : Block) {u : Bytes} {m b : Nat}
    (h : u.length = 16 * m + b) (hb : 1 ≤ b) (hb' : b ≤ 15) :
    xtsDecUnit E x t u = decBlocks E x t u (m - 1) ++ decSteal E x t u m b := by
  have further : u.length % 16 = b := by omega
  have blocks : u.length / 16 = m := by omega
  simp only [xtsDecUnit, further, blocks, if_neg (show ¬ b = 0 by omega)]

/-- Settles O38: whole blocks and the stealing part are undone by their inverse. -/
theorem xtsDecInvertsXtsEnc : Obligations.XtsDecInvertsXtsEnc := by
  intro E x t u least
  have dec_enc (j : Nat) (b : Block) : blkDec E x.primary (mask E x t j)
    (blkEnc E x.primary (mask E x t j) b) = b := blkDec_blkEnc ..
  have enc_dec (j : Nat) (b : Block) : blkEnc E x.primary (mask E x t j)
    (blkDec E x.primary (mask E x t j) b) = b := blkEnc_blkDec ..
  obtain ⟨m, b, length, hb⟩ : ∃ m b, u.length = 16 * m + b ∧ b ≤ 15 :=
    ⟨u.length / 16, u.length % 16, by omega, by omega⟩
  have enc_length := (length_xtsEncUnit E x t u least).trans length
  have dec_length := (length_xtsDecUnit E x t u least).trans length
  rcases Nat.eq_zero_or_pos b with rfl | pos
  · have all : u.take (16 * m) = u := List.take_of_length_le (by omega)
    rw [xtsDecUnit_of_whole E x t enc_length, xtsEncUnit_of_whole E x t dec_length,
      xtsEncUnit_of_whole E x t length, xtsDecUnit_of_whole E x t length]
    have undone {f g : Nat → Block → Block} (inverse : ∀ j b, g j (f j b) = b) :
        mapBlocks g (mapBlocks f u m) m = u := by
      have := mapBlocks_mapBlocks inverse (show 16 * m ≤ u.length by omega) []
      rwa [List.append_nil, all] at this
    exact ⟨undone dec_enc, undone enc_dec⟩
  · rw [xtsDecUnit_of_partial E x t enc_length pos hb, xtsEncUnit_of_partial E x t dec_length pos hb,
      xtsEncUnit_of_partial E x t length pos hb, xtsDecUnit_of_partial E x t length pos hb]
    have hm : 1 ≤ m := by omega
    exact ⟨mapUnit_mapUnit dec_enc hm length hb, mapUnit_mapUnit enc_dec hm length hb⟩

end Sys2Proof.Machine
end

section
/-! PROOFS. The tail step, and LDT encryption and decryption, undo themselves (`43_ldt.md` section 2). -/

namespace Sys2Proof.Machine

theorem xorBytes_xorBytes_cancel {x k : Bytes} (h : x.length ≤ k.length) :
    xorBytes (xorBytes x k) k = x := by
  apply List.ext_getElem
  · rw [length_xorBytes, length_xorBytes]
    omega
  · intro i _ _
    simp only [xorBytes, List.getElem_zipWith, BitVec.xor_assoc, BitVec.xor_self, BitVec.xor_zero]

theorem tailOp_tailOp (E : Engine) (key2 : XtsKey) (t2 : Block) {x : Bytes} (h : x.length ≤ 16) :
    tailOp E key2 t2 (tailOp E key2 t2 x) = x :=
  xorBytes_xorBytes_cancel (by rwa [length_blockBytes])

/-- Settles O44: the same key stream is XORed twice. -/
theorem tailOpIsItsOwnInverse : Obligations.TailOpIsItsOwnInverse := fun E key2 t2 x legal =>
  ⟨length_tailOp E key2 t2 x (by omega), tailOp_tailOp E key2 t2 (by omega)⟩

/-- The two parts of a decryption (`43_ldt.md` R191): the tail first, then the block under its padding. -/
theorem ldtDecrypt_append (E : Engine) (k : LdtKey) (p : Padder) (v cf : Block) (rest : Bytes) :
    let tail := tailOp E k.key2 (mixBlock E.mixPerm cf) rest
    ldtDecrypt E k p v (blockBytes cf ++ rest) =
      blockBytes (xtsDecBlock E k.key1 (padTweak p v tail) cf) ++ tail := by
  have first : blockOfBytes (slice (blockBytes cf ++ rest) 0 16) = cf :=
    unitBlock_append_blockBytes (front := []) (j := 0) rfl cf rest
  have behind : (blockBytes cf ++ rest).drop 16 = rest := List.drop_left' (length_blockBytes cf)
  simp only [ldtDecrypt, first, behind]

/-- The two parts of an encryption (`43_ldt.md` R189). -/
theorem ldtEncrypt_append (E : Engine) (k : LdtKey) (p : Padder) (v b : Block) (tail : Bytes) :
    let cf := xtsEncBlock E k.key1 (padTweak p v tail) b
    ldtEncrypt E k p v (blockBytes b ++ tail) =
      blockBytes cf ++ tailOp E k.key2 (mixBlock E.mixPerm cf) tail := by
  have first : blockOfBytes (slice (blockBytes b ++ tail) 0 16) = b :=
    unitBlock_append_blockBytes (front := []) (j := 0) rfl b tail
  have behind : (blockBytes b ++ tail).drop 16 = tail := List.drop_left' (length_blockBytes b)
  simp only [ldtEncrypt, first, behind]

/-- Settles O45: a message is a block and a tail; the tail step and the block cipher undo themselves. -/
theorem ldtRoundTrip : Obligations.LdtRoundTrip := by
  intro E k p v msg least most
  obtain ⟨b, tail, legal, rfl⟩ : ∃ b tail, tail.length ≤ 16 ∧ msg = blockBytes b ++ tail :=
    ⟨unitBlock msg 0, msg.drop 16, by rw [List.length_drop]; omega, by
      rw [blockBytes_unitBlock (by omega)]; exact (slice_append_drop msg (Nat.zero_le 16)).symm⟩
  constructor
  · rw [ldtEncrypt_append, ldtDecrypt_append, tailOp_tailOp E _ _ legal, xtsDecBlock_xtsEncBlock]
  · rw [ldtDecrypt_append, ldtEncrypt_append, xtsEncBlock_xtsDecBlock, tailOp_tailOp E _ _ legal]

end Sys2Proof.Machine
end

section
/-! PROOFS. XTS_ENC, XTS_DEC, LDT_ENC and LDT_DEC on the memory: round trips, and what the XTS commands
depend on (`41_xts.md` section 4, `43_ldt.md` section 3). -/

namespace Sys2Proof.Machine

/-! ### Round trips -/

/-- A range that was read and overwritten, and overwritten again with what was read, holds what the
first read found. -/
theorem Memory.get_restored (m : Memory) (d a : Nat) {n : Nat} {bs : Bytes} (length : bs.length = n)
    (x : Nat) :
    Memory.get (Memory.writeBytes (Memory.writeBytes m a bs) a (Memory.readBytes m d a n)) x =
      if a ≤ x ∧ x < a + n then some (Memory.readByte m d x) else Memory.get m x := by
  rw [Memory.get_writeBytes, Memory.length_readBytes]
  split
  case isTrue inside =>
    rw [List.getElem?_eq_getElem (by rw [Memory.length_readBytes]; omega), Memory.getElem_readBytes,
      Nat.add_sub_cancel' inside.1]
  case isFalse outside => exact Memory.get_writeBytes_outside _ _ _ _ (by rwa [length])

/-- The state after a command that replaced the buffer. -/
def State.replaced (s : State) (bs : Bytes) : State :=
  (s.nextDraw.writeDmem s.addr.toNat bs).succeed

/-- A buffer that was replaced by as many bytes is read as those bytes. -/
theorem buffer_replaced {s : State} {bs : Bytes} (length : bs.length = s.len.toNat) :
    (s.replaced bs).buffer = bs := by
  have read := Memory.readBytes_writeBytes s.dmem (s.draws + 1) s.addr.toNat bs
  rwa [length] at read

/-- Two commands in a row that replace the buffer by inverse functions leave every byte of DMEM as the
first one found it. -/
theorem roundTrip_restores {i j : Instr} {s : State} {f g : Bytes → Bytes}
    (first : exec i s = .next (s.replaced (f s.buffer)))
    (second : ∀ bs, exec j (s.replaced bs) = .next ((s.replaced bs).replaced (g (s.replaced bs).buffer)))
    (length : (f s.buffer).length = s.len.toNat) (inverse : g (f s.buffer) = s.buffer) :
    ∃ t u, exec i s = .next t ∧ exec j t = .next u ∧
      ∀ x, Memory.get u.dmem x =
        if s.addr.toNat ≤ x ∧ x < s.addr.toNat + s.len.toNat then
          some (Memory.readByte s.dmem s.draws x)
        else Memory.get s.dmem x := by
  refine ⟨_, _, first, second _, fun x => ?_⟩
  rw [buffer_replaced length, inverse]
  exact Memory.get_restored s.dmem s.draws s.addr.toNat length x

theorem exists_keys {s : State} (h : s.keysValid = true) : ∃ ks, s.keys = some ks :=
  Option.isSome_iff_exists.mp h

/-- Settles O39: each command replaces the buffer, and by O38 the second undoes the first. -/
theorem xtsRoundTripRestoresMemory : Obligations.XtsRoundTripRestoresMemory := by
  intro k s valid least most fits i j order
  obtain ⟨ks, loaded⟩ := exists_keys valid
  have length : s.buffer.length = s.len.toNat := State.length_dmemBytes ..
  have legal : 16 ≤ s.buffer.length := by omega
  obtain ⟨dec_enc, enc_dec⟩ := xtsDecInvertsXtsEnc Config.engine (ks.select k) s.tweak s.buffer legal
  have first (f : XtsKey → Block → Bytes → Bytes) : xtsCommand Config.engine f k s =
      s.replaced (f (ks.select k) s.tweak s.buffer) := xtsCommand_of_inRange loaded least most fits
  have second (f : XtsKey → Block → Bytes → Bytes) (bs : Bytes) :
      xtsCommand Config.engine f k (s.replaced bs) =
        (s.replaced bs).replaced (f (ks.select k) s.tweak (s.replaced bs).buffer) :=
    xtsCommand_of_inRange (s := s.replaced bs) loaded least most fits
  rcases order with ⟨rfl, rfl⟩ | ⟨rfl, rfl⟩
  · exact roundTrip_restores (congrArg Host.Outcome.next (first _))
      (fun bs => congrArg Host.Outcome.next (second _ bs))
      ((length_xtsEncUnit _ _ _ _ legal).trans length) dec_enc
  · exact roundTrip_restores (congrArg Host.Outcome.next (first _))
      (fun bs => congrArg Host.Outcome.next (second _ bs))
      ((length_xtsDecUnit _ _ _ _ legal).trans length) enc_dec

/-- Settles O46: each command replaces the buffer, and by O45 the second undoes the first. -/
theorem ldtRoundTripRestoresMemory : Obligations.LdtRoundTripRestoresMemory := by
  intro p s valid least most fits i j order
  obtain ⟨ks, loaded⟩ := exists_keys valid
  have length : s.buffer.length = s.len.toNat := State.length_dmemBytes ..
  have least' : 16 ≤ s.buffer.length := by omega
  obtain ⟨dec_enc, enc_dec⟩ := ldtRoundTrip Config.engine ks p s.padval s.buffer least' (by omega)
  have first (f : LdtKey → Padder → Block → Bytes → Bytes) : ldtCommand Config.engine f p s =
      s.replaced (f ks p s.padval s.buffer) := ldtCommand_of_inRange loaded least most fits
  have second (f : LdtKey → Padder → Block → Bytes → Bytes) (bs : Bytes) :
      ldtCommand Config.engine f p (s.replaced bs) =
        (s.replaced bs).replaced (f ks p s.padval (s.replaced bs).buffer) :=
    ldtCommand_of_inRange (s := s.replaced bs) loaded least most fits
  rcases order with ⟨rfl, rfl⟩ | ⟨rfl, rfl⟩
  · exact roundTrip_restores (congrArg Host.Outcome.next (first _))
      (fun bs => congrArg Host.Outcome.next (second _ bs))
      ((length_ldtEncrypt _ _ _ _ _ least' (by omega)).trans length) dec_enc
  · exact roundTrip_restores (congrArg Host.Outcome.next (first _))
      (fun bs => congrArg Host.Outcome.next (second _ bs))
      ((length_ldtDecrypt _ _ _ _ _ least' (by omega)).trans length) enc_dec

/-! ### What the XTS commands depend on -/

/-- Reads of two ranges with the same written bytes give the same, whatever the numbers of the reads. -/
theorem readBytes_eq_of_written {m m' : Memory} {a n : Nat} (d d' : Nat)
    (h : ∀ j, j < n → ∃ v, Memory.get m (a + j) = some v ∧ Memory.get m' (a + j) = some v) :
    Memory.readBytes m d a n = Memory.readBytes m' d' a n := by
  apply List.map_congr_left
  intro j hj
  obtain ⟨v, written, written'⟩ := h j (List.mem_range.mp hj)
  rw [Memory.readByte_of_get written, Memory.readByte_of_get written']

/-- Two states with the same operands and the same written buffer end a command of the XTS kind with
the same outcome and the same buffer. -/
theorem xtsCommand_congr {E : Engine} {f : XtsKey → Block → Bytes → Bytes} {k : KeySlot} {s s' : State}
    (keeps_length : ∀ x t u, 16 ≤ u.length → (f x t u).length = u.length)
    (addr : s.addr = s'.addr) (len : s.len = s'.len) (tweak : s.tweak = s'.tweak)
    (keys : s.keys = s'.keys)
    (written : ∀ j, j < s.len.toNat → ∃ v, Memory.get s.dmem (s.addr.toNat + j) = some v ∧
      Memory.get s'.dmem (s.addr.toNat + j) = some v) :
    let t := xtsCommand E f k s
    let t' := xtsCommand E f k s'
    t'.err = t.err ∧ t'.errinfo = t.errinfo ∧ ∀ j, j < s.len.toNat →
      Memory.get t'.dmem (s.addr.toNat + j) = Memory.get t.dmem (s.addr.toNat + j) := by
  have buffer : s.buffer = s'.buffer := by
    rw [State.buffer, State.buffer, ← addr, ← len]
    exact readBytes_eq_of_written s.draws s'.draws written
  have same (j : Nat) (inside : j < s.len.toNat) :
      Memory.get s'.dmem (s.addr.toNat + j) = Memory.get s.dmem (s.addr.toNat + j) := by
    obtain ⟨v, h, h'⟩ := written j inside
    rw [h, h']
  rcases xtsCommand_cases E f k s with ⟨unloaded, h⟩ | ⟨ks, loaded, ⟨short, h⟩ | ⟨long, h⟩ |
    ⟨least, most, outside, h⟩ | ⟨least, most, fits, h⟩⟩
  · rw [h, xtsCommand_of_noKeys (keys.symm.trans unloaded)]
    exact ⟨rfl, rfl, same⟩
  · rw [h, xtsCommand_of_short (keys.symm.trans loaded) (len ▸ short), len]
    exact ⟨rfl, rfl, len ▸ same⟩
  · rw [h, xtsCommand_of_long (keys.symm.trans loaded) (len ▸ long), len]
    exact ⟨rfl, rfl, len ▸ same⟩
  · rw [h, xtsCommand_of_outOfRange (keys.symm.trans loaded) (len ▸ least) (len ▸ most)
      (len ▸ addr ▸ outside)]
    exact ⟨rfl, by rw [addr]; rfl, same⟩
  · rw [h, xtsCommand_of_inRange (keys.symm.trans loaded) (len ▸ least) (len ▸ most)
      (len ▸ addr ▸ fits), ← addr, ← tweak, ← buffer]
    have length : (f (ks.select k) s.tweak s.buffer).length = s.len.toNat := by
      have read : s.buffer.length = s.len.toNat := State.length_dmemBytes ..
      rw [keeps_length _ _ _ (by omega), read]
    refine ⟨rfl, rfl, fun j inside => ?_⟩
    exact (Memory.get_writeBytes_getElem? s'.dmem _ (by omega)).trans
      (Memory.get_writeBytes_getElem? s.dmem _ (by omega)).symm

/-- Settles O25: the rule of both commands, for functions that keep the length of a data unit. -/
theorem xtsDependsOnItsOperandsOnly : Obligations.XtsDependsOnItsOperandsOnly := by
  intro k s s' t i command addr len tweak keys written ran
  refine ⟨_, exec_eq i s', ?_⟩
  rw [exec_eq_next] at ran
  subst ran
  rcases command with rfl | rfl
  · exact xtsCommand_congr (length_xtsEncUnit Config.engine) addr len tweak keys written
  · exact xtsCommand_congr (length_xtsDecUnit Config.engine) addr len tweak keys written

end Sys2Proof.Machine
end

section
/-! PROOFS. The fields of a V1 section (`44_codec_frames.md` R213). -/

namespace Sys2Proof.Machine

theorem slice_one {F : Bytes} {i : Nat} (h : i < F.length) : [F.getD i 0] = slice F i (i + 1) := by
  rw [slice, Nat.add_sub_cancel_left, List.drop_eq_getElem_cons h, List.take_succ_cons, List.take_zero,
    List.getD_eq_getElem _ _ h]

/-- Two slices that meet are one slice. -/
theorem slice_append_slice (F : Bytes) {a b c : Nat} (hab : a ≤ b) (hbc : b ≤ c) :
    slice F a b ++ slice F b c = slice F a c := by
  have cut : slice F b c = ((F.drop a).drop (b - a)).take (c - b) := by
    rw [List.drop_drop, Nat.add_sub_cancel' hab, slice]
  rw [cut, slice, slice, ← List.take_add, show b - a + (c - b) = c - a by omega]

/-- Settles O48: six slices, each cut where the one before it ends. -/
theorem v1FieldsCutTheSection : Obligations.V1FieldsCutTheSection := by
  intro F salt tl legal f
  obtain ⟨sl, hsl⟩ : ∃ sl, sl = saltBytes salt := ⟨_, rfl⟩
  rw [← hsl] at legal ⊢
  have least := (v1LengthLegal_iff ..).mp legal
  have format : [f.format] = slice F 0 1 := slice_one (by omega)
  have saltField : f.salt = slice F 1 (1 + sl) := by rw [hsl]; rfl
  have token : blockBytes f.tok = slice F (1 + sl) (17 + sl) := by
    rw [hsl]
    exact blockBytes_blockOfBytes _ (by rw [length_slice]; omega)
  have lenbyte : [f.lenbyte] = slice F (17 + sl) (18 + sl) := by
    rw [hsl]
    exact (slice_one (by omega)).trans (by congr 1; omega)
  have de : f.de = slice F (18 + sl) (F.length - tl) := by rw [hsl]; rfl
  have trailer : f.trailer = slice F (F.length - tl) F.length := rfl
  refine ⟨?whole, ?salt, ?trailer, ?de⟩
  case whole =>
    rw [format, saltField, token, lenbyte, de, trailer, slice_append_slice F (by omega) (by omega),
      slice_append_slice F (by omega) (by omega), slice_append_slice F (by omega) (by omega),
      slice_append_slice F (by omega) (by omega), slice_append_slice F (by omega) (by omega),
      slice_zero, List.take_length]
  case salt => rw [saltField, length_slice]; omega
  case trailer => rw [trailer, length_slice]; omega
  case de => rw [de, length_slice]; omega

end Sys2Proof.Machine
end

section
/-! PROOFS. The two RESOLVE commands: the tests before the loop, and the first entry that verifies
(`45_resolve.md` sections 2 and 3). -/

namespace Sys2Proof.Machine

/-! ### The tests before the loop, in their order -/

section

variable {E : Engine} {legal : Nat → Bool} {record : Bytes → State → State}
  {attempt : Bytes → CredEntry → Option Bytes} {s : State}

theorem resolve_of_badLength (h : legal s.len.toNat = false) :
    resolve E legal record attempt s = s.raise .invalidStructure s.len := by
  rw [resolve, h, Bool.not_false, if_pos rfl]

theorem resolve_of_frameOutOfRange (length : legal s.len.toNat = true)
    (h : E.dmemBytes < s.addr.toNat + s.len.toNat) :
    resolve E legal record attempt s = s.raiseRange E s.addr := by
  simp only [resolve, length, Bool.not_true, Bool.false_eq_true, if_false,
    if_pos ((outOfRange_iff ..).mpr h)]

theorem resolve_of_badCount (length : legal s.len.toNat = true)
    (frame : s.addr.toNat + s.len.toNat ≤ E.dmemBytes) (h : E.ncredMax < s.credCount.toNat) :
    resolve E legal record attempt s = s.raise .credCountRange s.credCount := by
  simp only [resolve, length, Bool.not_true, Bool.false_eq_true, if_false,
    (outOfRange_eq_false ..).mpr frame, if_pos h]

theorem resolve_of_tableOutOfRange (length : legal s.len.toNat = true)
    (frame : s.addr.toNat + s.len.toNat ≤ E.dmemBytes) (count : s.credCount.toNat ≤ E.ncredMax)
    (notEmpty : 0 < s.credCount.toNat)
    (h : E.dmemBytes < s.credBase.toNat + s.credCount.toNat * E.credStride) :
    resolve E legal record attempt s = s.raiseRange E s.credBase := by
  simp only [resolve, length, Bool.not_true, Bool.false_eq_true, if_false,
    (outOfRange_eq_false ..).mpr frame, if_neg count.not_gt, notEmpty, decide_true, Bool.true_and,
    if_pos ((outOfRange_iff ..).mpr h)]

/-- When the tests pass, the first entry that verifies is delivered, into the state with the frame
recorded and CRED_IDX on that entry. -/
theorem resolve_of_match (length : legal s.len.toNat = true) (fit : s.tablesFit E)
    (entry : s.LoopEntry (record s.buffer s.nextDraw)) {i : Nat} {pt : Bytes}
    (inside : i < s.credCount.toNat)
    (before : ∀ j, j < i → attempt s.buffer (s.entryRead E j) = none)
    (found : attempt s.buffer (s.entryRead E i) = some pt) :
    resolve E legal record attempt s =
      deliver E pt (State.setCredIdx { record s.buffer s.nextDraw with draws := s.draws + 2 + i }
        (BitVec.ofNat 32 i)) :=
  (resolve_runs E legal record attempt s length fit).trans
    (resolveLoop_match entry inside before found)

end

/-- Settles O51: the four tests with the length test of `44_codec_frames.md` R210. -/
theorem resolveV0TestsInOrder : Obligations.ResolveV0TestsInOrder := by
  intro p s n N
  simp only [exec_eq_next, result, resolveV0]
  refine ⟨fun bad => resolve_of_badLength ?bad, fun least most => ?good⟩
  case bad =>
    rw [← Bool.not_eq_true, v0LengthLegal_iff]
    omega
  case good =>
    have length := (v0LengthLegal_iff n).mpr ⟨least, most⟩
    exact ⟨resolve_of_frameOutOfRange length, fun frame =>
      ⟨resolve_of_badCount length frame, resolve_of_tableOutOfRange length frame⟩⟩

/-- Settles O52: the four tests with the length test of `44_codec_frames.md` R214. -/
theorem resolveV1TestsInOrder : Obligations.ResolveV1TestsInOrder := by
  intro salt mode s n N least
  simp only [exec_eq_next, result, resolveV1]
  refine ⟨fun short => resolve_of_badLength ?short, fun enough => ?good⟩
  case short =>
    rw [← Bool.not_eq_true, v1LengthLegal_iff]
    exact short.not_ge
  case good =>
    have length := (v1LengthLegal_iff ..).mpr enough
    exact ⟨resolve_of_frameOutOfRange length, fun frame =>
      ⟨resolve_of_badCount length frame, resolve_of_tableOutOfRange length frame⟩⟩

/-! ### The first match -/

/-- The state in which the loop of a RESOLVE command delivers: the frame recorded, CRED_IDX on the
entry that verified, and every read counted. -/
def State.matchedAt (s : State) (salt : Block) (saltLen : Word) (nonce : Nonce) (token : Block)
    (i : Nat) : State :=
  { s with credIdx := BitVec.ofNat 32 i, sircSalt := salt, sircSaltLen := saltLen, sircNonce := nonce,
           sircToken := token, draws := s.draws + 2 + i }

theorem setSirc_matchedAt (s : State) (salt : Block) (saltLen : Word) (nonce : Nonce) (token : Block)
    (i : Nat) :
    State.setCredIdx { s.nextDraw.setSirc salt saltLen nonce token with draws := s.draws + 2 + i }
      (BitVec.ofNat 32 i) = s.matchedAt salt saltLen nonce token i := rfl

theorem resolveV0_of_match {E : Engine} {p : Padder} {s : State} {i : Nat} {pt : Bytes}
    (least : 32 ≤ s.len.toNat) (most : s.len.toNat ≤ 47) (fit : s.tablesFit E)
    (inside : i < s.credCount.toNat) (before : ∀ j, j < i → s.tryV0 E p j = none)
    (found : s.tryV0 E p i = some pt) :
    resolveV0 E p s = deliver E pt (s.matchedAt
      (blockOfBytes (s.buffer.take 2 ++ List.replicate 14 0)) 2 0
      (blockOfBytes ((s.buffer.drop 2).take 14 ++ List.replicate 2 0)) i) := by
  have length := (v0LengthLegal_iff _).mpr ⟨least, most⟩
  rw [resolveV0, resolve_of_match length fit (loopEntry_recordV0 ..) inside before found,
    recordV0_v0Fields, setSirc_matchedAt]

theorem resolveV1_of_match {E : Engine} {salt : SaltKind} {mode : VerifyMode} {s : State} {i : Nat}
    {pt : Bytes} (least : 18 + saltBytes salt + trailerBytes E mode ≤ s.len.toNat) (fit : s.tablesFit E)
    (inside : i < s.credCount.toNat) (before : ∀ j, j < i → s.tryV1 E salt mode j = none)
    (found : s.tryV1 E salt mode i = some pt) :
    let f := s.section1 E salt mode
    resolveV1 E salt mode s = deliver E pt (s.matchedAt
      (blockOfBytes (f.salt ++ List.replicate (16 - saltBytes salt) 0))
      (BitVec.ofNat 32 (saltBytes salt)) (E.computeNonce f.salt) f.tok i) := by
  intro f
  have length := (v1LengthLegal_iff ..).mpr least
  rw [resolveV1]
  exact (resolve_of_match length fit (loopEntry_recordV1 E _ f s) inside before found).trans
    (congrArg (deliver E pt) (setSirc_matchedAt ..))

/-- Settles O53: the loop delivers, and the arena has room. -/
theorem resolveV0DeliversTheFirstMatch : Obligations.ResolveV0DeliversTheFirstMatch := by
  intro p s i pt least most fit inside before found room
  exact (exec_eq ..).trans (congrArg Host.Outcome.next
    ((resolveV0_of_match least most fit inside before found).trans (deliver_of_room room)))

/-- Settles O54: the loop delivers, and the arena has room. -/
theorem resolveV1DeliversTheFirstMatch : Obligations.ResolveV1DeliversTheFirstMatch := by
  intro salt mode s i pt least fit inside before found room f
  exact (exec_eq ..).trans (congrArg Host.Outcome.next
    ((resolveV1_of_match least fit inside before found).trans (deliver_of_room room)))

/-- Settles O56: the loop delivers, and the arena has no room. -/
theorem fullArenaEndsTheLoop : Obligations.FullArenaEndsTheLoop := by
  refine ⟨fun p s i pt least most fit inside before found full => ?v0,
    fun salt mode s i pt least fit inside before found full => ?v1⟩
  case v0 =>
    exact ⟨_, (exec_eq ..).trans (congrArg Host.Outcome.next
      ((resolveV0_of_match least most fit inside before found).trans (deliver_of_noRoom full))),
      rfl, rfl, rfl, rfl, rfl, rfl, rfl, rfl, rfl, rfl⟩
  case v1 =>
    exact ⟨_, (exec_eq ..).trans (congrArg Host.Outcome.next
      ((resolveV1_of_match least fit inside before found).trans (deliver_of_noRoom full))),
      rfl, rfl, rfl, rfl, rfl, rfl, rfl, rfl, rfl, rfl⟩

end Sys2Proof.Machine
end

section
/-! PROOFS. What a delivery leaves (`45_resolve.md` section 2, `46_arena.md`). -/

namespace Sys2Proof.Machine

/-- The state after a command that ended with MATCH = 1, as far as the arena goes. -/
structure Delivered (E : Engine) (i : Instr) (s t : State) (pt : Bytes) : Prop where
  length : DeliveredLength E i s.len.toNat pt.length
  room : s.arenaPtr.toNat + pt.length ≤ E.arenaBytes
  arena : t.arena = Memory.writeBytes s.arena s.arenaPtr.toNat pt
  arenaPtr : t.arenaPtr = BitVec.ofNat 32 (s.arenaPtr.toNat + pt.length)
  resAddr : t.resAddr = s.arenaPtr
  resLen : t.resLen = BitVec.ofNat 32 pt.length

/-- Only a delivery sets MATCH. -/
theorem CommandTo.delivered_of_matched {E : Engine} {s t : State} {i : Instr} (h : CommandTo E s i t)
    (matched : t.matched = true) : ∃ pt, Delivered E i s t pt := by
  cases h with
  | delivered _ _ _ _ _ _ _ _ _ _ pt length room =>
    rw [delivered_eq]
    exact ⟨pt, length, room, rfl, rfl, rfl, rfl⟩
  | failed | panicked | tweak | keys | buffer | noMatch | noRoom | arenaReset => cases matched

theorem exec_delivered {i : Instr} {s t : State} (ran : exec i s = .next t) (matched : t.matched = true) :
    ∃ pt, Delivered Config.engine i s t pt ∧ t.resLen.toNat = pt.length ∧
      t.arenaPtr.toNat = s.arenaPtr.toNat + pt.length := by
  obtain ⟨pt, delivered⟩ := (exec_commandTo ran).delivered_of_matched matched
  have small := engine_arenaBytes_lt
  have room := delivered.room
  exact ⟨pt, delivered, by rw [delivered.resLen, toNat_ofNat_word (by omega)],
    by rw [delivered.arenaPtr, toNat_ofNat_word (by omega)]⟩

/-- Settles O57: the lengths of `DeliveredLength`. -/
theorem deliveriesAreShorterThanTheirFrames : Obligations.DeliveriesAreShorterThanTheirFrames := by
  refine ⟨fun p s t ran matched => ?v0, fun salt mode s t ran matched => ?v1⟩
  case v0 =>
    obtain ⟨pt, delivered, resLen, -⟩ := exec_delivered ran matched
    rw [resLen]
    exact delivered.length
  case v1 =>
    obtain ⟨pt, delivered, resLen, -⟩ := exec_delivered ran matched
    rw [resLen]
    exact delivered.length

/-- Settles O58: a delivery writes the arena from the old pointer to the new one. -/
theorem deliveriesAreConsecutive : Obligations.DeliveriesAreConsecutive := by
  intro i s t ran matched
  obtain ⟨pt, delivered, resLen, arenaPtr⟩ := exec_delivered ran matched
  have room := delivered.room
  have written (a : Nat) : Memory.get t.arena a =
      if s.arenaPtr.toNat ≤ a ∧ a < s.arenaPtr.toNat + pt.length then pt[a - s.arenaPtr.toNat]?
      else Memory.get s.arena a := by
    rw [delivered.arena, Memory.get_writeBytes]
  refine ⟨delivered.resAddr, by rw [arenaPtr, resLen], by rw [arenaPtr]; exact room,
    fun a above below => ?inside, fun a outside => ?outside⟩
  case inside =>
    rw [written, if_pos (by omega), List.getElem?_eq_getElem (by omega)]
    rfl
  case outside => rw [written, if_neg (by omega)]

end Sys2Proof.Machine
end
